-- ==== Sys2Proof/Word.lean ====
section
/-! DEFINITION. The words the block works on: bytes, 32-bit words, 64-bit transaction words and
18-bit aperture offsets (spec rules R10, R11, R80, R117), the three access widths of a host
transaction (R13), and the four-byte column and sixteen-byte block of the AES state (R15, R199). -/

namespace Sys2Proof

/-- A byte is 8 bits, unsigned (R10). -/
abbrev Byte := BitVec 8

/-- A word is 32 bits (R10). -/
abbrev Word := BitVec 32

/-- An encoded host transaction is one 64-bit word (R117). -/
abbrev TxnWord := BitVec 64

/-- An aperture offset is an unsigned 18-bit number (R80). -/
abbrev Offset := BitVec 18

/-- The access widths of a host transaction: 1, 2 or 4 bytes (R13). -/
inductive Width where
  | one
  | two
  | four
deriving DecidableEq, Repr, Inhabited

/-- The number `n` of bytes of an access (R13). -/
def Width.bytes : Width → Nat
  | .one => 1
  | .two => 2
  | .four => 4

/-- Four bytes in order: a column `s[0,c] .. s[3,c]` of the AES state, or a round-key word
`w[i][0..3]` (R15). -/
structure Quad where
  b0 : Byte
  b1 : Byte
  b2 : Byte
  b3 : Byte
deriving DecidableEq, Repr, Inhabited

/-- Sixteen bytes as the AES state array: column `c` holds `s[0,c] .. s[3,c]`, which are block
bytes `4c .. 4c+3` (R199). -/
structure Block where
  c0 : Quad
  c1 : Quad
  c2 : Quad
  c3 : Quad
deriving DecidableEq, Repr, Inhabited

/-- The word of four zero bytes. -/
def Quad.zero : Quad := ⟨0, 0, 0, 0⟩

/-- The state of sixteen zero bytes. -/
def Block.zero : Block := ⟨Quad.zero, Quad.zero, Quad.zero, Quad.zero⟩

end Sys2Proof
end

