-- ==== Sys2Proof/Machine/Aes.lean ====
section
/-! DEFINITION. The AES block cipher (spec/42_block_cipher.md): the field GF(2^8) (R190 to R193),
the substitution tables (R194, R195), the round transformations and their inverses (R196 to
R203), and the two block operations CIPHER and INV_CIPHER (R204, R205). -/

namespace Sys2Proof.Machine

/-! ## The field GF(2^8) -/

/-- `xtime(b)`, multiplication by the element 02 (R191). -/
def xtime (b : Byte) : Byte :=
  if b.getLsbD 7 then (b <<< 1) ^^^ 0x1B#8 else b <<< 1

/-- The state of R192's loop, the pair `(p, a)`, after the bits of `b` listed by `ks`. -/
def gmulLoop (b : Byte) : List Nat → Byte × Byte → Byte × Byte
  | [], pa => pa
  | k :: ks, pa => gmulLoop b ks (if b.getLsbD k then pa.1 ^^^ pa.2 else pa.1, xtime pa.2)

/-- `gmul(a, b)`, multiplication by shift-and-add (R192). -/
def gmul (a b : Byte) : Byte := (gmulLoop b [0, 1, 2, 3, 4, 5, 6, 7] (0, a)).1

/-- The product of two polynomials over GF(2) of degree at most 7, before any reduction (R190). -/
def polyMul (a b : Byte) : BitVec 16 :=
  [0, 1, 2, 3, 4, 5, 6, 7].foldl
    (fun p k => if b.getLsbD k then p ^^^ (a.setWidth 16 <<< k) else p) 0

/-- The remainder of a polynomial of degree at most 15 modulo `m(x) = x^8 + x^4 + x^3 + x + 1`,
which is 0x11B (R190): the highest power is cancelled first. -/
def polyMod (p : BitVec 16) : Byte :=
  ([15, 14, 13, 12, 11, 10, 9, 8].foldl
    (fun p k => if p.getLsbD k then p ^^^ (0x11B#16 <<< (k - 8)) else p) p).setWidth 8

/-- All 256 bytes in rising order. -/
def allBytes : List Byte := (List.range 256).map (BitVec.ofNat 8)

/-- `inv(b)`: the byte `c` with `b • c = 01` for nonzero `b`, and 00 for 00 (R193). -/
def inv (b : Byte) : Byte := (allBytes.find? fun c => gmul b c == 1#8).getD 0

/-- The affine map `A` of R194; `rotl8(b,k)` is `b.rotateLeft k`. -/
def affine (b : Byte) : Byte :=
  b ^^^ b.rotateLeft 1 ^^^ b.rotateLeft 2 ^^^ b.rotateLeft 3 ^^^ b.rotateLeft 4 ^^^ 0x63#8

/-! ## The substitution tables: row = high nibble, column = low nibble -/

def sboxRow0 : List Byte :=
  [0x63, 0x7c, 0x77, 0x7b, 0xf2, 0x6b, 0x6f, 0xc5, 0x30, 0x01, 0x67, 0x2b, 0xfe, 0xd7, 0xab, 0x76]
def sboxRow1 : List Byte :=
  [0xca, 0x82, 0xc9, 0x7d, 0xfa, 0x59, 0x47, 0xf0, 0xad, 0xd4, 0xa2, 0xaf, 0x9c, 0xa4, 0x72, 0xc0]
def sboxRow2 : List Byte :=
  [0xb7, 0xfd, 0x93, 0x26, 0x36, 0x3f, 0xf7, 0xcc, 0x34, 0xa5, 0xe5, 0xf1, 0x71, 0xd8, 0x31, 0x15]
def sboxRow3 : List Byte :=
  [0x04, 0xc7, 0x23, 0xc3, 0x18, 0x96, 0x05, 0x9a, 0x07, 0x12, 0x80, 0xe2, 0xeb, 0x27, 0xb2, 0x75]
def sboxRow4 : List Byte :=
  [0x09, 0x83, 0x2c, 0x1a, 0x1b, 0x6e, 0x5a, 0xa0, 0x52, 0x3b, 0xd6, 0xb3, 0x29, 0xe3, 0x2f, 0x84]
def sboxRow5 : List Byte :=
  [0x53, 0xd1, 0x00, 0xed, 0x20, 0xfc, 0xb1, 0x5b, 0x6a, 0xcb, 0xbe, 0x39, 0x4a, 0x4c, 0x58, 0xcf]
def sboxRow6 : List Byte :=
  [0xd0, 0xef, 0xaa, 0xfb, 0x43, 0x4d, 0x33, 0x85, 0x45, 0xf9, 0x02, 0x7f, 0x50, 0x3c, 0x9f, 0xa8]
def sboxRow7 : List Byte :=
  [0x51, 0xa3, 0x40, 0x8f, 0x92, 0x9d, 0x38, 0xf5, 0xbc, 0xb6, 0xda, 0x21, 0x10, 0xff, 0xf3, 0xd2]
def sboxRow8 : List Byte :=
  [0xcd, 0x0c, 0x13, 0xec, 0x5f, 0x97, 0x44, 0x17, 0xc4, 0xa7, 0x7e, 0x3d, 0x64, 0x5d, 0x19, 0x73]
def sboxRow9 : List Byte :=
  [0x60, 0x81, 0x4f, 0xdc, 0x22, 0x2a, 0x90, 0x88, 0x46, 0xee, 0xb8, 0x14, 0xde, 0x5e, 0x0b, 0xdb]
def sboxRowA : List Byte :=
  [0xe0, 0x32, 0x3a, 0x0a, 0x49, 0x06, 0x24, 0x5c, 0xc2, 0xd3, 0xac, 0x62, 0x91, 0x95, 0xe4, 0x79]
def sboxRowB : List Byte :=
  [0xe7, 0xc8, 0x37, 0x6d, 0x8d, 0xd5, 0x4e, 0xa9, 0x6c, 0x56, 0xf4, 0xea, 0x65, 0x7a, 0xae, 0x08]
def sboxRowC : List Byte :=
  [0xba, 0x78, 0x25, 0x2e, 0x1c, 0xa6, 0xb4, 0xc6, 0xe8, 0xdd, 0x74, 0x1f, 0x4b, 0xbd, 0x8b, 0x8a]
def sboxRowD : List Byte :=
  [0x70, 0x3e, 0xb5, 0x66, 0x48, 0x03, 0xf6, 0x0e, 0x61, 0x35, 0x57, 0xb9, 0x86, 0xc1, 0x1d, 0x9e]
def sboxRowE : List Byte :=
  [0xe1, 0xf8, 0x98, 0x11, 0x69, 0xd9, 0x8e, 0x94, 0x9b, 0x1e, 0x87, 0xe9, 0xce, 0x55, 0x28, 0xdf]
def sboxRowF : List Byte :=
  [0x8c, 0xa1, 0x89, 0x0d, 0xbf, 0xe6, 0x42, 0x68, 0x41, 0x99, 0x2d, 0x0f, 0xb0, 0x54, 0xbb, 0x16]

/-- The sixteen rows of R194's table. -/
def sboxRows : List (List Byte) :=
  [sboxRow0, sboxRow1, sboxRow2, sboxRow3, sboxRow4, sboxRow5, sboxRow6, sboxRow7,
    sboxRow8, sboxRow9, sboxRowA, sboxRowB, sboxRowC, sboxRowD, sboxRowE, sboxRowF]

/-- `SBOX[a]` (R194), read from the table. -/
def sbox (a : Byte) : Byte := (sboxRows.getD (a.toNat / 16) []).getD (a.toNat % 16) 0

def invSboxRow0 : List Byte :=
  [0x52, 0x09, 0x6a, 0xd5, 0x30, 0x36, 0xa5, 0x38, 0xbf, 0x40, 0xa3, 0x9e, 0x81, 0xf3, 0xd7, 0xfb]
def invSboxRow1 : List Byte :=
  [0x7c, 0xe3, 0x39, 0x82, 0x9b, 0x2f, 0xff, 0x87, 0x34, 0x8e, 0x43, 0x44, 0xc4, 0xde, 0xe9, 0xcb]
def invSboxRow2 : List Byte :=
  [0x54, 0x7b, 0x94, 0x32, 0xa6, 0xc2, 0x23, 0x3d, 0xee, 0x4c, 0x95, 0x0b, 0x42, 0xfa, 0xc3, 0x4e]
def invSboxRow3 : List Byte :=
  [0x08, 0x2e, 0xa1, 0x66, 0x28, 0xd9, 0x24, 0xb2, 0x76, 0x5b, 0xa2, 0x49, 0x6d, 0x8b, 0xd1, 0x25]
def invSboxRow4 : List Byte :=
  [0x72, 0xf8, 0xf6, 0x64, 0x86, 0x68, 0x98, 0x16, 0xd4, 0xa4, 0x5c, 0xcc, 0x5d, 0x65, 0xb6, 0x92]
def invSboxRow5 : List Byte :=
  [0x6c, 0x70, 0x48, 0x50, 0xfd, 0xed, 0xb9, 0xda, 0x5e, 0x15, 0x46, 0x57, 0xa7, 0x8d, 0x9d, 0x84]
def invSboxRow6 : List Byte :=
  [0x90, 0xd8, 0xab, 0x00, 0x8c, 0xbc, 0xd3, 0x0a, 0xf7, 0xe4, 0x58, 0x05, 0xb8, 0xb3, 0x45, 0x06]
def invSboxRow7 : List Byte :=
  [0xd0, 0x2c, 0x1e, 0x8f, 0xca, 0x3f, 0x0f, 0x02, 0xc1, 0xaf, 0xbd, 0x03, 0x01, 0x13, 0x8a, 0x6b]
def invSboxRow8 : List Byte :=
  [0x3a, 0x91, 0x11, 0x41, 0x4f, 0x67, 0xdc, 0xea, 0x97, 0xf2, 0xcf, 0xce, 0xf0, 0xb4, 0xe6, 0x73]
def invSboxRow9 : List Byte :=
  [0x96, 0xac, 0x74, 0x22, 0xe7, 0xad, 0x35, 0x85, 0xe2, 0xf9, 0x37, 0xe8, 0x1c, 0x75, 0xdf, 0x6e]
def invSboxRowA : List Byte :=
  [0x47, 0xf1, 0x1a, 0x71, 0x1d, 0x29, 0xc5, 0x89, 0x6f, 0xb7, 0x62, 0x0e, 0xaa, 0x18, 0xbe, 0x1b]
def invSboxRowB : List Byte :=
  [0xfc, 0x56, 0x3e, 0x4b, 0xc6, 0xd2, 0x79, 0x20, 0x9a, 0xdb, 0xc0, 0xfe, 0x78, 0xcd, 0x5a, 0xf4]
def invSboxRowC : List Byte :=
  [0x1f, 0xdd, 0xa8, 0x33, 0x88, 0x07, 0xc7, 0x31, 0xb1, 0x12, 0x10, 0x59, 0x27, 0x80, 0xec, 0x5f]
def invSboxRowD : List Byte :=
  [0x60, 0x51, 0x7f, 0xa9, 0x19, 0xb5, 0x4a, 0x0d, 0x2d, 0xe5, 0x7a, 0x9f, 0x93, 0xc9, 0x9c, 0xef]
def invSboxRowE : List Byte :=
  [0xa0, 0xe0, 0x3b, 0x4d, 0xae, 0x2a, 0xf5, 0xb0, 0xc8, 0xeb, 0xbb, 0x3c, 0x83, 0x53, 0x99, 0x61]
def invSboxRowF : List Byte :=
  [0x17, 0x2b, 0x04, 0x7e, 0xba, 0x77, 0xd6, 0x26, 0xe1, 0x69, 0x14, 0x63, 0x55, 0x21, 0x0c, 0x7d]

/-- The sixteen rows of R195's table. -/
def invSboxRows : List (List Byte) :=
  [invSboxRow0, invSboxRow1, invSboxRow2, invSboxRow3, invSboxRow4, invSboxRow5, invSboxRow6, invSboxRow7,
    invSboxRow8, invSboxRow9, invSboxRowA, invSboxRowB, invSboxRowC, invSboxRowD, invSboxRowE, invSboxRowF]

/-- `INV_SBOX[a]` (R195), read from the table. -/
def invSbox (a : Byte) : Byte := (invSboxRows.getD (a.toNat / 16) []).getD (a.toNat % 16) 0

/-! ## Loading and storing the state -/

/-- The bytes of a column or round-key word in order. -/
def quadBytes (q : Quad) : List Byte := [q.b0, q.b1, q.b2, q.b3]

/-- `store(s)`: `out[r + 4c] = s[r,c]` (R199). -/
def blockBytes (s : Block) : List Byte :=
  quadBytes s.c0 ++ quadBytes s.c1 ++ quadBytes s.c2 ++ quadBytes s.c3

/-- The word at bytes `i .. i+3` of a byte sequence. -/
def quadAt (q : List Byte) (i : Nat) : Quad :=
  ⟨q.getD i 0, q.getD (i + 1) 0, q.getD (i + 2) 0, q.getD (i + 3) 0⟩

/-- `load` of the sixteen bytes from index `i` on: `s[r,c] = in[r + 4c]` (R199). -/
def blockAt (q : List Byte) (i : Nat) : Block :=
  ⟨quadAt q i, quadAt q (i + 4), quadAt q (i + 8), quadAt q (i + 12)⟩

/-! ## The round transformations -/

/-- Apply a byte function to the four bytes of a word. -/
def mapQuad (f : Byte → Byte) (q : Quad) : Quad := ⟨f q.b0, f q.b1, f q.b2, f q.b3⟩

/-- Bytewise exclusive-or of two words (R145, R200). -/
def xorQuad (p q : Quad) : Quad :=
  ⟨p.b0 ^^^ q.b0, p.b1 ^^^ q.b1, p.b2 ^^^ q.b2, p.b3 ^^^ q.b3⟩

/-- Apply a column function to the four columns of the state. -/
def mapBlock (f : Quad → Quad) (s : Block) : Block := ⟨f s.c0, f s.c1, f s.c2, f s.c3⟩

/-- `SUB_BYTES(s)` (R196). -/
def subBytes (s : Block) : Block := mapBlock (mapQuad sbox) s

/-- `INV_SUB_BYTES(s)` (R202). -/
def invSubBytes (s : Block) : Block := mapBlock (mapQuad invSbox) s

/-- `SHIFT_ROWS(s)`: `s'[r,c] = s[r, (c + r) mod 4]` (R197). -/
def shiftRows (s : Block) : Block :=
  ⟨⟨s.c0.b0, s.c1.b1, s.c2.b2, s.c3.b3⟩,
   ⟨s.c1.b0, s.c2.b1, s.c3.b2, s.c0.b3⟩,
   ⟨s.c2.b0, s.c3.b1, s.c0.b2, s.c1.b3⟩,
   ⟨s.c3.b0, s.c0.b1, s.c1.b2, s.c2.b3⟩⟩

/-- `INV_SHIFT_ROWS(s)`: `s'[r,c] = s[r, (c - r) mod 4]` (R201). -/
def invShiftRows (s : Block) : Block :=
  ⟨⟨s.c0.b0, s.c3.b1, s.c2.b2, s.c1.b3⟩,
   ⟨s.c1.b0, s.c0.b1, s.c3.b2, s.c2.b3⟩,
   ⟨s.c2.b0, s.c1.b1, s.c0.b2, s.c3.b3⟩,
   ⟨s.c3.b0, s.c2.b1, s.c1.b2, s.c0.b3⟩⟩

/-- One column of MIX_COLUMNS (R198). -/
def mixColumn (a : Quad) : Quad :=
  ⟨gmul 0x02 a.b0 ^^^ gmul 0x03 a.b1 ^^^ a.b2 ^^^ a.b3,
   a.b0 ^^^ gmul 0x02 a.b1 ^^^ gmul 0x03 a.b2 ^^^ a.b3,
   a.b0 ^^^ a.b1 ^^^ gmul 0x02 a.b2 ^^^ gmul 0x03 a.b3,
   gmul 0x03 a.b0 ^^^ a.b1 ^^^ a.b2 ^^^ gmul 0x02 a.b3⟩

/-- `MIX_COLUMNS(s)` (R198). -/
def mixColumns (s : Block) : Block := mapBlock mixColumn s

/-- One column of INV_MIX_COLUMNS (R203). -/
def invMixColumn (a : Quad) : Quad :=
  ⟨gmul 0x0e a.b0 ^^^ gmul 0x0b a.b1 ^^^ gmul 0x0d a.b2 ^^^ gmul 0x09 a.b3,
   gmul 0x09 a.b0 ^^^ gmul 0x0e a.b1 ^^^ gmul 0x0b a.b2 ^^^ gmul 0x0d a.b3,
   gmul 0x0d a.b0 ^^^ gmul 0x09 a.b1 ^^^ gmul 0x0e a.b2 ^^^ gmul 0x0b a.b3,
   gmul 0x0b a.b0 ^^^ gmul 0x0d a.b1 ^^^ gmul 0x09 a.b2 ^^^ gmul 0x0e a.b3⟩

/-- `INV_MIX_COLUMNS(s)` (R203). -/
def invMixColumns (s : Block) : Block := mapBlock invMixColumn s

/-- Round key `rnd` of a schedule: the words `w[4·rnd .. 4·rnd+3]` (R200). -/
def roundKey (w : List Quad) (rnd : Nat) : Block :=
  ⟨w.getD (4 * rnd) Quad.zero, w.getD (4 * rnd + 1) Quad.zero,
   w.getD (4 * rnd + 2) Quad.zero, w.getD (4 * rnd + 3) Quad.zero⟩

/-- Exclusive-or of two states, byte by byte. -/
def xorBlock (s k : Block) : Block :=
  ⟨xorQuad s.c0 k.c0, xorQuad s.c1 k.c1, xorQuad s.c2 k.c2, xorQuad s.c3 k.c3⟩

/-- `ADD_ROUND_KEY(s, w, rnd)` (R200). -/
def addRoundKey (s : Block) (w : List Quad) (rnd : Nat) : Block := xorBlock s (roundKey w rnd)

/-! ## The block operations -/

/-- One inner round of CIPHER (R204). -/
def cipherRound (w : List Quad) (rnd : Nat) (s : Block) : Block :=
  addRoundKey (mixColumns (shiftRows (subBytes s))) w rnd

/-- Rounds `1 .. n` of CIPHER, in that order (R204). -/
def cipherRounds (w : List Quad) : Nat → Block → Block
  | 0, s => s
  | n + 1, s => cipherRound w (n + 1) (cipherRounds w n s)

/-- `CIPHER(in, w, Nr)` (R204). -/
def cipher (b : Block) (w : List Quad) (nr : Nat) : Block :=
  addRoundKey (shiftRows (subBytes (cipherRounds w (nr - 1) (addRoundKey b w 0)))) w nr

/-- One inner round of INV_CIPHER (R205). -/
def invCipherRound (w : List Quad) (rnd : Nat) (s : Block) : Block :=
  invMixColumns (addRoundKey (invSubBytes (invShiftRows s)) w rnd)

/-- Rounds `n` down to `1` of INV_CIPHER (R205). -/
def invCipherRounds (w : List Quad) : Nat → Block → Block
  | 0, s => s
  | n + 1, s => invCipherRounds w n (invCipherRound w (n + 1) s)

/-- `INV_CIPHER(in, w, Nr)` (R205). -/
def invCipher (b : Block) (w : List Quad) (nr : Nat) : Block :=
  addRoundKey (invSubBytes (invShiftRows (invCipherRounds w (nr - 1) (addRoundKey b w nr)))) w 0

end Sys2Proof.Machine
end

