-- ==== Sys2Proof/Machine/KeySchedule.lean ====
section
/-! DEFINITION. The Cipher Selector and the key schedule (spec/40_cipher_selector.md): SELECT
(R140), ROTWORD, SUBWORD and RCON (R146 to R148) and KEY_EXPANSION (R145). -/

namespace Sys2Proof.Machine

/-- `SELECT(klen)`: `some (Nk, Nr)` for a key of 16, 24 or 32 bytes, and `none`, which stands for
UNSUPPORTED, for every other 32-bit value (R140). -/
def select (klen : Word) : Option (Nat × Nat) :=
  if klen = 16#32 then some (4, 10)
  else if klen = 24#32 then some (6, 12)
  else if klen = 32#32 then some (8, 14)
  else none

/-- `ROTWORD` (R146). -/
def rotWord (q : Quad) : Quad := ⟨q.b1, q.b2, q.b3, q.b0⟩

/-- `SUBWORD` (R147). -/
def subWord (q : Quad) : Quad := mapQuad sbox q

/-- `rc[j]`: 01 doubled `j - 1` times by xtime (R148). -/
def rc : Nat → Byte
  | 0 => 0
  | 1 => 0x01
  | j + 2 => xtime (rc (j + 1))

/-- `RCON[j]` (R148). -/
def rcon (j : Nat) : Quad := ⟨rc j, 0, 0, 0⟩

/-- The value of `temp` that R145's loop XORs into `w[i]`, from `w[i-1]`. -/
def scheduleTemp (nk i : Nat) (prev : Quad) : Quad :=
  if i % nk = 0 then xorQuad (subWord (rotWord prev)) (rcon (i / nk))
  else if 6 < nk ∧ i % nk = 4 then subWord prev
  else prev

/-- `n` more rounds of R145's loop; `ws` is `w[0 .. i-1]` with `i` its length. -/
def extendSchedule (nk : Nat) : Nat → List Quad → List Quad
  | 0, ws => ws
  | n + 1, ws =>
    extendSchedule nk n
      (ws ++ [xorQuad (ws.getD (ws.length - nk) Quad.zero)
        (scheduleTemp nk ws.length (ws.getD (ws.length - 1) Quad.zero))])

/-- `KEY_EXPANSION(key, Nk, Nr)`: the words `w[0 .. 4·(Nr+1)-1]` (R145). -/
def keyExpansion (key : List Byte) (nk nr : Nat) : List Quad :=
  extendSchedule nk (4 * (nr + 1) - nk) ((List.range nk).map fun i => quadAt key (4 * i))

end Sys2Proof.Machine
end

