-- ==== Sys2Proof/Config.lean ====
section
/-! DEFINITION. What one implementation fixes and what the spec leaves free (rule R8 and
spec/93_implementation_defined.md). Each free value is an opaque constant without a body, so no
proof can see what it is: the block's bus address (I3), the contents of IN_BUF after a reset (I1)
and the hidden datapath while a command runs (I6). MAX_FRAME_BYTES (I4) is a field of State and
LATENCY (I2) is timing, which the model does not have (R371). -/

namespace Sys2Proof

/-- The hidden datapath of the engine: the cipher state `S` (R53), the round-key store `W` with
the recorded `NK` and `NR` (R54), and the sequencer counters `BLK`, `RND`, `PADN` (R55). -/
structure Datapath where
  S    : Block
  W    : Vector Quad 60
  NK   : Nat
  NR   : Nat
  BLK  : Nat
  RND  : Nat
  PADN : Nat
deriving DecidableEq, Repr, Inhabited

/-- Every part of the datapath at its reset value 0 (R53 to R55), which is also what completion
leaves (R57). -/
def Datapath.zero : Datapath :=
  { S := Block.zero, W := Vector.replicate 60 Quad.zero, NK := 0, NR := 0, BLK := 0, RND := 0, PADN := 0 }

namespace Config

/-- The multiple of 0x40000 at which the platform puts the block (R8, R92). Free value, log 8. -/
opaque baseIndex : Nat

/-- `BASE`, the bus address of register offset 0: any multiple of 0x40000 (R8). -/
def base : Nat := 0x40000 * baseIndex

/-- `IN_BUF_RESET`: byte `i` of IN_BUF after the `n`-th reset, as long as the host has not written
it (R48, D43). Free value, log 9. -/
opaque inBufReset : Nat → Nat → Byte

/-- What the hidden datapath holds at the `n`-th moment of a run at which the spec leaves it open
(I6). Free value, log 10. -/
opaque rawDatapath : Nat → Datapath

end Config

end Sys2Proof
end

