-- ==== Sys2Proof/Syntax.lean ====
section
/-! DEFINITION. The instructions of the block: one constructor per row of spec/opcode_table.json.
The command words (R110, R111) are presented to the sequencer through register CMD; the
transactions (R116, R117) are the host's six bus accesses. -/

namespace Sys2Proof

/-- One instruction. -/
inductive Instr where
  /-- `NOP`, command word 0x00000000 (R230). -/
  | nop
  /-- `ENCRYPT`, command word 0x00000001 (R233). -/
  | encrypt
  /-- `DECRYPT`, command word 0x00000002 (R234). -/
  | decrypt
  /-- `ILLEGAL`: every other command word, by its fields `OP` and `RSVD` (R240). -/
  | illegal (op : BitVec 4) (rsvd : BitVec 28)
  /-- `RD8 off` (R293). -/
  | rd8 (off : Offset)
  /-- `RD16 off` (R294). -/
  | rd16 (off : Offset)
  /-- `RD32 off` (R295). -/
  | rd32 (off : Offset)
  /-- `WR8 off, d` (R296). -/
  | wr8 (off : Offset) (d : BitVec 8)
  /-- `WR16 off, d` (R297). -/
  | wr16 (off : Offset) (d : BitVec 16)
  /-- `WR32 off, d` (R298). -/
  | wr32 (off : Offset) (d : BitVec 32)
deriving DecidableEq, Repr

end Sys2Proof
end

