-- ==== Sys2Proof/WellFormed.lean ====
section
/-! DEFINITION. Which terms of Instr stand for a word of their own. Every operand has exactly the
width of its field, so one check is left: the words 0, 1 and 2 are commands and not ILLEGAL
(R111, R114). -/

namespace Sys2Proof

/-- The command word whose fields are `OP` (bits 3..0) and `RSVD` (bits 31..4) (R110). -/
def joinCommand (op : BitVec 4) (rsvd : BitVec 28) : Word := rsvd ++ op

/-- An ILLEGAL instruction's word is none of the three commands (R111). -/
def Instr.wellFormed : Instr → Bool
  | .nop => true
  | .encrypt => true
  | .decrypt => true
  | .illegal op rsvd =>
    joinCommand op rsvd != 0#32 && joinCommand op rsvd != 1#32 && joinCommand op rsvd != 2#32
  | .rd8 _ => true
  | .rd16 _ => true
  | .rd32 _ => true
  | .wr8 _ _ => true
  | .wr16 _ _ => true
  | .wr32 _ _ => true

/-- Is the instruction a command word (format CMD32), not a transaction (format TXN64)? -/
def Instr.isCommand : Instr → Bool
  | .nop => true
  | .encrypt => true
  | .decrypt => true
  | .illegal _ _ => true
  | .rd8 _ => false
  | .rd16 _ => false
  | .rd32 _ => false
  | .wr8 _ _ => false
  | .wr16 _ _ => false
  | .wr32 _ _ => false

end Sys2Proof
end

