-- ==== Sys2Proof/Decode.lean ====
section
/-! DEFINITION. Decoding and encoding (spec/30_encoding.md). A command is one 32-bit word (R110,
R115) and a host transaction one 64-bit word (R117). The decoder reads the bytes of one word,
least significant byte first (log 4), and is total: it gives an instruction or rejects by name. -/

namespace Sys2Proof

/-- Why bytes are no instruction. -/
inductive DecodeError where
  /-- Neither the four bytes of a command word nor the eight of a transaction word. -/
  | wordLength
  /-- A transaction word with `SZ = 3` (R117). -/
  | illegalSize
  /-- A transaction word with a nonzero `RSVD` (R117). -/
  | reservedBits
deriving DecidableEq, Repr

/-! ## Decoding -/

/-- The decode of a command word, total over all 2^32 words (R111). -/
def decodeCommand (cw : Word) : Instr :=
  if cw = 0x00000000#32 then .nop
  else if cw = 0x00000001#32 then .encrypt
  else if cw = 0x00000002#32 then .decrypt
  else .illegal (cw.extractLsb' 0 4) (cw.extractLsb' 4 28)

/-- Field `W` of a transaction word, bit 63: 0 read, 1 write (R117). -/
def txnWrite (w : TxnWord) : BitVec 1 := w.extractLsb' 63 1

/-- Field `SZ`, bits 62..61 (R117). -/
def txnSize (w : TxnWord) : BitVec 2 := w.extractLsb' 61 2

/-- Field `RSVD`, bits 60..50 (R117). -/
def txnRsvd (w : TxnWord) : BitVec 11 := w.extractLsb' 50 11

/-- Field `OFF`, bits 49..32 (R117). -/
def txnOffset (w : TxnWord) : Offset := w.extractLsb' 32 18

/-- Field `DATA`, bits 31..0 (R117). -/
def txnData (w : TxnWord) : Word := w.extractLsb' 0 32

/-- The decode of a transaction word (R117). Write data is the low `n` bytes of `DATA`; a read
ignores `DATA`, as the opcode table's mask does (log 6). -/
def decodeTxn (w : TxnWord) : Except DecodeError Instr :=
  if txnSize w = 3#2 then .error .illegalSize
  else if txnRsvd w ≠ 0#11 then .error .reservedBits
  else if txnWrite w = 0#1 then
    if txnSize w = 0#2 then .ok (.rd8 (txnOffset w))
    else if txnSize w = 1#2 then .ok (.rd16 (txnOffset w))
    else .ok (.rd32 (txnOffset w))
  else
    if txnSize w = 0#2 then .ok (.wr8 (txnOffset w) ((txnData w).extractLsb' 0 8))
    else if txnSize w = 1#2 then .ok (.wr16 (txnOffset w) ((txnData w).extractLsb' 0 16))
    else .ok (.wr32 (txnOffset w) (txnData w))

/-- The decode of the bytes of one word: four bytes are a command word, eight a transaction. -/
def decode : List Byte → Except DecodeError Instr
  | [b0, b1, b2, b3] => .ok (decodeCommand (b3 ++ b2 ++ b1 ++ b0))
  | [b0, b1, b2, b3, b4, b5, b6, b7] =>
    decodeTxn (b7 ++ b6 ++ b5 ++ b4 ++ b3 ++ b2 ++ b1 ++ b0)
  | _ => .error .wordLength

/-! ## Encoding -/

/-- The four bytes of a command word, least significant first. -/
def commandBytes (cw : Word) : List Byte :=
  [cw.extractLsb' 0 8, cw.extractLsb' 8 8, cw.extractLsb' 16 8, cw.extractLsb' 24 8]

/-- The eight bytes of a transaction word, least significant first. -/
def txnBytes (w : TxnWord) : List Byte :=
  [w.extractLsb' 0 8, w.extractLsb' 8 8, w.extractLsb' 16 8, w.extractLsb' 24 8,
   w.extractLsb' 32 8, w.extractLsb' 40 8, w.extractLsb' 48 8, w.extractLsb' 56 8]

/-- The transaction word with fields `W`, `SZ`, `OFF` and `DATA`, and `RSVD` zero (R117). -/
def joinTxn (write : BitVec 1) (size : BitVec 2) (off : Offset) (data : Word) : TxnWord :=
  write ++ size ++ 0#11 ++ off ++ data

/-- The bytes of an instruction's word (R110, R117). Reads carry `DATA` 0, and narrow writes carry
0 above their data. -/
def encode : Instr → List Byte
  | .nop => commandBytes 0x00000000#32
  | .encrypt => commandBytes 0x00000001#32
  | .decrypt => commandBytes 0x00000002#32
  | .illegal op rsvd => commandBytes (joinCommand op rsvd)
  | .rd8 off => txnBytes (joinTxn 0#1 0#2 off 0#32)
  | .rd16 off => txnBytes (joinTxn 0#1 1#2 off 0#32)
  | .rd32 off => txnBytes (joinTxn 0#1 2#2 off 0#32)
  | .wr8 off d => txnBytes (joinTxn 1#1 0#2 off (d.setWidth 32))
  | .wr16 off d => txnBytes (joinTxn 1#1 1#2 off (d.setWidth 32))
  | .wr32 off d => txnBytes (joinTxn 1#1 2#2 off d)

/-! ## Words as spec/opcode_table.json numbers them -/

/-- The bytes of a table row's word: a row of up to 32 bits is a command word, a longer one a
transaction word; bits the row does not give are 0. -/
def tableBytes (nbits w : Nat) : List Byte :=
  if nbits ≤ 32 then commandBytes (BitVec.ofNat 32 w) else txnBytes (BitVec.ofNat 64 w)

/-- The instruction the decoder reads from the word `w` of a row of `nbits` bits. -/
def decodeTableWord (nbits w : Nat) : Option Instr :=
  match decode (tableBytes nbits w) with
  | .ok i => some i
  | .error _ => none

end Sys2Proof
end

