-- ==== Sys2Proof/Machine/State.lean ====
section
/-! DEFINITION. The state of the block (spec/10_state.md, spec/70_reset_and_hazards.md rule R351),
the events of its two agents and its reset input (R17, R350), the responses it gives on the bus
(R280), the results of a command (R14, R310), the reasons a step can stop, and the state after
reset. -/

namespace Sys2Proof.Machine

/-- The two operations the engine runs (R233, R234); the value of `OPR` while a command runs. -/
inductive Op where
  | encrypt
  | decrypt
deriving DecidableEq, Repr

/-- `PHASE` together with `OPR` (R52, R232): `OPR` records the accepted operation exactly while
`PHASE = RUN`, and is NONE exactly while `PHASE = IDLE` (log 18). -/
inductive Phase where
  | idle
  | run (op : Op)
deriving DecidableEq, Repr

/-- The five kinds of command error (R310). Code 0 NONE belongs to a `Value` result, and codes 6
to 15 do not exist. -/
inductive Cause where
  | absentInput
  | keyLength
  | ctLength
  | badPadding
  | capacity
deriving DecidableEq, Repr

/-- The result of a command: `Value(B)` or `Absent` with its diagnostic cause (R14, R235). -/
inductive Result where
  | value (bytes : List Byte)
  | absent (cause : Cause)
deriving DecidableEq, Repr

/-- The response that ends a host transaction (R280): OK for a write, OK with `n` bytes of data for
a read (the value zero-extended to 32 bits, log 21), or BUS_ERROR. -/
inductive Response where
  | ok
  | data (n : Width) (v : Word)
  | busError
deriving DecidableEq, Repr

/-- The two buffers (R48, R49). -/
inductive Buffer where
  | input
  | output
deriving DecidableEq, Repr

/-- The registers of the register map (spec/10_state.md §2). -/
inductive RegName where
  | id
  | caps
  | ctrl
  | cmd
  | status
  | err
  | irqStatus
  | present
  | keyLen
  | dataLen
  | outLen
  | key (j : Fin 8)
deriving DecidableEq, Repr

/-- What a legal transaction reaches (R81): a register, or a byte index of a buffer window. -/
inductive Target where
  | reg (r : RegName)
  | input (i : Nat)
  | output (i : Nat)
deriving DecidableEq, Repr

/-- What can happen next: the model's own record of what the outside and the engine do (log 1). -/
inductive Event where
  /-- The host issues the instruction these bytes encode (R94, R117). -/
  | host (bytes : List Byte)
  /-- A bus master accesses the bus address `addr` (R81): `n` bytes, write or read. -/
  | bus (write : Bool) (n : Width) (addr : Nat) (data : Word)
  /-- The engine takes its turn (R17, R250). -/
  | engine
  /-- The reset input (R350). -/
  | reset
deriving DecidableEq, Repr

/-- Why the machine stops with a fault. There is NO constructor: no rule of the spec stops the
block, which "never stops and never enters an error state it cannot leave" (R314, R255); a bus
error is a response and a next state (R280). Nobody raises a fault (log 14). -/
inductive Fault where
deriving DecidableEq, Repr

/-- Why a step has no meaning. -/
inductive Refusal where
  /-- An instruction whose meaning the model does not have, named as the opcode table names it.
  Raised by no arm of exec: every instruction has its meaning. Safe. -/
  | notModelled (mnemonic : String)
  /-- The bytes of a host event are no instruction: "a harness refuses it by name" (R117). Raised
  by step when decode rejects them. Safe. -/
  | notATransaction (why : DecodeError)
deriving DecidableEq, Repr

/-- The whole state of the block. Registers ID and CAPS hold constants; CMD holds no state (R35);
the interrupt output is computed (R50). -/
structure State where
  /-- `MAX_FRAME_BYTES`, what CAPS.MAXFRAME reports (R8, R33). No step changes it. -/
  maxFrame       : Nat
  /-- CTRL.IRQ_EN (R34). -/
  irqEn          : Bool
  /-- STATUS.BUSY (R37). -/
  busy           : Bool
  /-- STATUS.DONE (R38). -/
  done           : Bool
  /-- STATUS.VALUE (R39). -/
  value          : Bool
  /-- STATUS.CAUSE, bits 7..4 (R40). -/
  cause          : BitVec 4
  /-- ERR.ILLEGAL_CMD (R41). -/
  illegalCmd     : Bool
  /-- ERR.CMD_WHILE_BUSY (R41). -/
  cmdWhileBusy   : Bool
  /-- ERR.WRITE_WHILE_BUSY (R41). -/
  writeWhileBusy : Bool
  /-- IRQ_STATUS.DONE (R42). -/
  irqDone        : Bool
  /-- PRESENT.KEY_PRESENT (R45). -/
  keyPresent     : Bool
  /-- PRESENT.DATA_PRESENT (R45). -/
  dataPresent    : Bool
  /-- KEY_LEN (R44). -/
  keyLen         : Word
  /-- DATA_LEN (R46). -/
  dataLen        : Word
  /-- OUT_LEN (R47). -/
  outLen         : Word
  /-- KEY0 .. KEY7 (R43). -/
  key            : Vector Word 8
  /-- IN_BUF by byte index (R48): the bytes the host has written since the last reset. -/
  inBuf          : List Host.Cell
  /-- OUT_BUF by byte index (R49): the bytes that are not 0x00. -/
  outBuf         : List Host.Cell
  /-- PHASE and OPR (R52, R232). -/
  phase          : Phase
  /-- The hidden datapath S, W, NK, NR, BLK, RND, PADN (R53 to R55). -/
  datapath       : Datapath
  /-- The response to the last host transaction (R280); none since reset. -/
  response       : Option Response
  /-- The model's own: how many times the reset input has been asserted; it selects the free
  contents of IN_BUF (log 9). -/
  resets         : Nat
  /-- The model's own: how many free datapath values have been drawn (log 10). -/
  draws          : Nat
  /-- The model's own: what the outside and the engine do next, first event first (log 1). -/
  schedule       : List Event
deriving DecidableEq, Repr

/-- The state right after reset (R351), in the reference configuration MAX_FRAME_BYTES = 4096
(R8), with no event pending and the model's own counters at 0 (log 1, log 9, log 10). -/
def State.reset : State where
  maxFrame       := 4096
  irqEn          := false
  busy           := false
  done           := false
  value          := false
  cause          := 0
  illegalCmd     := false
  cmdWhileBusy   := false
  writeWhileBusy := false
  irqDone        := false
  keyPresent     := false
  dataPresent    := false
  keyLen         := 0
  dataLen        := 0
  outLen         := 0
  key            := Vector.replicate 8 0
  inBuf          := []
  outBuf         := []
  phase          := .idle
  datapath       := Datapath.zero
  response       := none
  resets         := 0
  draws          := 0
  schedule       := []

end Sys2Proof.Machine
end

