-- ==== Sys2Proof/Machine/Flags.lean ====
section
/-! DEFINITION. The flags of the block (R58): the words a host reads from the registers that hold
them (R282), the updates that set them (R240, R241, R287), write-1-to-clear (R288), and the
interrupt output (R50). There are no arithmetic condition codes. -/

namespace Sys2Proof.Machine

/-- One flag as bit `k` of a word; the word's other bits read 0 (R51). -/
def flagBit (b : Bool) (k : Nat) : Word := if b then 1#32 <<< k else 0#32

/-- What CTRL reads (R34, R282). -/
def ctrlWord (s : State) : Word := flagBit s.irqEn 0

/-- What STATUS reads (R36, R282). -/
def statusWord (s : State) : Word :=
  (s.cause.setWidth 32 <<< 4) ||| flagBit s.value 2 ||| flagBit s.done 1 ||| flagBit s.busy 0

/-- What ERR reads (R41, R282). -/
def errWord (s : State) : Word :=
  flagBit s.writeWhileBusy 2 ||| flagBit s.cmdWhileBusy 1 ||| flagBit s.illegalCmd 0

/-- What IRQ_STATUS reads (R42, R282). -/
def irqStatusWord (s : State) : Word := flagBit s.irqDone 0

/-- What PRESENT reads (R45, R282). -/
def presentWord (s : State) : Word := flagBit s.dataPresent 1 ||| flagBit s.keyPresent 0

/-- What CAPS reads: the five feature bits and MAXFRAME (R33). -/
def capsWord (s : State) : Word := 0x001F0000#32 ||| BitVec.ofNat 32 s.maxFrame

/-- The interrupt output, a level: `irq = CTRL.IRQ_EN ∧ IRQ_STATUS.DONE` (R50). -/
def irq (s : State) : Bool := s.irqEn && s.irqDone

/-- The event of an illegal command word (R240). -/
def setIllegalCmd (s : State) : State := { s with illegalCmd := true }

/-- The event of a command word written while busy (R241). -/
def setCmdWhileBusy (s : State) : State := { s with cmdWhileBusy := true }

/-- The event of a dropped input-side write (R287). -/
def setWriteWhileBusy (s : State) : State := { s with writeWhileBusy := true }

/-- A flag after a write-1-to-clear of bit `k` by the word `v` (R288). -/
def clearBy (flag : Bool) (v : Word) (k : Nat) : Bool := flag && !v.getLsbD k

/-- A write of `v` to ERR (R288). -/
def clearErr (v : Word) (s : State) : State :=
  { s with
    illegalCmd     := clearBy s.illegalCmd v 0
    cmdWhileBusy   := clearBy s.cmdWhileBusy v 1
    writeWhileBusy := clearBy s.writeWhileBusy v 2 }

/-- A write of `v` to IRQ_STATUS: the acknowledgement of a completion (R288, R320). -/
def clearIrq (v : Word) (s : State) : State := { s with irqDone := clearBy s.irqDone v 0 }

/-- A write of `v` to CTRL (R34). -/
def writeCtrl (v : Word) (s : State) : State := { s with irqEn := v.getLsbD 0 }

/-- A write of `v` to PRESENT (R45). -/
def writePresent (v : Word) (s : State) : State :=
  { s with keyPresent := v.getLsbD 0, dataPresent := v.getLsbD 1 }

end Sys2Proof.Machine
end

