-- ==== Sys2Proof/Machine/Ops.lean ====
section
/-! DEFINITION. The named operations over buffers and registers: memory in canonical form and its
byte order (R85), the bus response and bus errors (R13, R280), the address decode and the legality
of a transaction (R81 to R84, R281), the BUSY window (R287), acceptance (R232), and completion with
its zeroization (R250, R57), which takes the place of entering an exception (R319). Its return is
the acknowledgement `clearIrq` (R320). -/

namespace Sys2Proof.Machine

/-! ## Memory -/

/-- What a byte index that memory does not list holds: nothing the spec fixes in IN_BUF (R48),
and 0x00 in OUT_BUF (R49). -/
def unlisted : Buffer → Option Byte
  | .input => none
  | .output => some 0x00

/-- The byte at index `i`. -/
def Memory.lookup (b : Buffer) : List Host.Cell → Nat → Option Byte
  | [], _ => unlisted b
  | (a, v) :: rest, i => if i = a then some v else Memory.lookup b rest i

/-- Memory with byte `v` at index `i`, in canonical form. -/
def Memory.insert (b : Buffer) : List Host.Cell → Nat → Byte → List Host.Cell
  | [], i, v => if unlisted b = some v then [] else [(i, v)]
  | (a, u) :: rest, i, v =>
    if i < a then
      if unlisted b = some v then (a, u) :: rest else (i, v) :: (a, u) :: rest
    else if i = a then
      if unlisted b = some v then rest else (i, v) :: rest
    else (a, u) :: Memory.insert b rest i v

/-- Memory that holds the bytes of a sequence from index `i` on and is unlisted elsewhere. -/
def Memory.ofBytes (b : Buffer) : Nat → List Byte → List Host.Cell
  | _, [] => []
  | i, v :: vs =>
    if unlisted b = some v then Memory.ofBytes b (i + 1) vs
    else (i, v) :: Memory.ofBytes b (i + 1) vs

/-- The canonical form: indexes strictly rising, no entry equal to what an unlisted index holds. -/
abbrev Memory.wf (b : Buffer) (m : List Host.Cell) : Prop :=
  m.Pairwise (fun x y => x.1 < y.1) ∧ ∀ c ∈ m, unlisted b ≠ some c.2

/-- Every listed index is below `n`. -/
abbrev Memory.below (n : Nat) (m : List Host.Cell) : Prop := ∀ c ∈ m, c.1 < n

/-- `IN[i]`: what the host last wrote there, or IN_BUF_RESET (R48, R284). -/
def inByte (s : State) (i : Nat) : Byte :=
  (Memory.lookup .input s.inBuf i).getD (Config.inBufReset s.resets i)

/-- `OUT[i]` as stored (R49). -/
def outByte (s : State) (i : Nat) : Byte := (Memory.lookup .output s.outBuf i).getD 0x00

/-- `OUTVIS(i)`: byte `i` of OUT_BUF as the host sees it (R285). -/
def outVis (s : State) (i : Nat) : Byte :=
  if s.done ∧ s.value ∧ i < s.outLen.toNat then outByte s i else 0x00

/-! ## Byte order -/

/-- Bits `8k+7 .. 8k` of a word (R85). -/
def wordByte (v : Word) (k : Nat) : Byte := v.extractLsb' (8 * k) 8

/-- `Σ_{k=0}^{n-1} byte[k] · 2^(8k)` (R85). -/
def leValue (byte : Nat → Byte) : Nat → Word
  | 0 => 0
  | n + 1 => leValue byte n + ((byte n).setWidth 32 <<< (8 * n))

/-- `IN[i+k] <- v[8k+7 : 8k]` for the first `n` values of `k` (R85). -/
def storeIn (v : Word) (i : Nat) : Nat → List Host.Cell → List Host.Cell
  | 0, m => m
  | n + 1, m => Memory.insert .input (storeIn v i n m) (i + n) (wordByte v n)

/-! ## Responses -/

/-- End a host transaction with a response (R280). -/
def respond (r : Response) (s : State) : State := { s with response := some r }

/-- `raise BusError(off)`: the BUS_ERROR response and no other change (R13, R280). -/
def busError (s : State) : State := respond .busError s

/-! ## Address decode and legality -/

/-- The register at an offset of the register region, if one is there (spec/10_state.md §2, R84). -/
def regAt (off : Nat) : Option RegName :=
  if off = 0x000 then some .id
  else if off = 0x004 then some .caps
  else if off = 0x008 then some .ctrl
  else if off = 0x00C then some .cmd
  else if off = 0x010 then some .status
  else if off = 0x014 then some .err
  else if off = 0x018 then some .irqStatus
  else if off = 0x01C then some .present
  else if off = 0x020 then some .keyLen
  else if off = 0x024 then some .dataLen
  else if off = 0x028 then some .outLen
  else if off = 0x040 then some (.key 0)
  else if off = 0x044 then some (.key 1)
  else if off = 0x048 then some (.key 2)
  else if off = 0x04C then some (.key 3)
  else if off = 0x050 then some (.key 4)
  else if off = 0x054 then some (.key 5)
  else if off = 0x058 then some (.key 6)
  else if off = 0x05C then some (.key 7)
  else none

/-- What an access of `n` bytes at offset `off` reaches, and `none` when it is not legal, that is a
BUS_ERROR (R81 to R84, R281). -/
def target (maxFrame off : Nat) (n : Width) : Option Target :=
  if off < 0x10000 then
    if n = .four ∧ off % 4 = 0 then (regAt off).map .reg else none
  else if off < 0x20000 then
    if off % n.bytes = 0 ∧ off - 0x10000 + n.bytes ≤ maxFrame then some (.input (off - 0x10000))
    else none
  else if off < 0x30000 then
    if off % n.bytes = 0 ∧ off - 0x20000 + n.bytes ≤ maxFrame + 16 then some (.output (off - 0x20000))
    else none
  else none

/-- The aperture offset of a bus address, `none` when the address does not reach the block (R81). -/
def busOffset (a : Nat) : Option Offset :=
  if Config.base ≤ a ∧ a - Config.base < 0x30000 then some (BitVec.ofNat 18 (a - Config.base))
  else none

/-! ## The BUSY window -/

/-- A write to input-side state: dropped with ERR.WRITE_WHILE_BUSY while busy (R286, R287). -/
def inputWrite (f : State → State) (s : State) : State :=
  if s.busy then setWriteWhileBusy s else f s

/-- A command presented to the sequencer: discarded with ERR.CMD_WHILE_BUSY while busy (R241). -/
def presentCommand (f : State → State) (s : State) : State :=
  if s.busy then setCmdWhileBusy s else f s

/-- `ACCEPT(op)` (R232). -/
def accept (op : Op) (s : State) : State :=
  { s with phase := .run op, busy := true, done := false, value := false, cause := 0, outLen := 0 }

/-! ## Completion -/

/-- The code of a command error in STATUS.CAUSE (R310). -/
def causeCode : Cause → BitVec 4
  | .absentInput => 1
  | .keyLength => 2
  | .ctLength => 3
  | .badPadding => 4
  | .capacity => 5

/-- `ZEROIZE()` (R57). -/
def zeroize (s : State) : State :=
  { s with
    key         := Vector.replicate 8 0
    keyLen      := 0
    keyPresent  := false
    dataPresent := false
    datapath    := Datapath.zero }

/-- The part of `complete(res)` that publishes the result: OUT_BUF whole, OUT_LEN, VALUE, CAUSE
(R250). -/
def publish : Result → State → State
  | .value bytes, s =>
    { s with
      outBuf := Memory.ofBytes .output 0 bytes
      outLen := BitVec.ofNat 32 bytes.length
      value  := true
      cause  := 0 }
  | .absent c, s =>
    { s with
      outBuf := []
      outLen := 0
      value  := false
      cause  := causeCode c }

/-- `complete(res)`: the completion record, the end of the BUSY window and the zeroization (R250,
R319). -/
def complete (res : Result) (s : State) : State :=
  zeroize { publish res s with done := true, busy := false, irqDone := true, phase := .idle }

end Sys2Proof.Machine
end

