-- ==== Sys2Proof/Machine/Operands.lean ====
section
/-! DEFINITION. Operand assembly (R112): the operands of ENCRYPT and DECRYPT are registers and
IN_BUF, never fields of the command word. -/

namespace Sys2Proof.Machine

/-- `KEYB[i]`: byte `i mod 4` of `KEY(i div 4)` for `i < 32` (R43, R88). -/
def keyByte (s : State) (i : Nat) : Byte := wordByte (s.key.toList.getD (i / 4) 0) (i % 4)

/-- The first `n` bytes of an indexed byte store, in order (R12). -/
def bytesOf (byte : Nat → Byte) (n : Nat) : List Byte := (List.range n).map byte

/-- The key operand of a command, `KEYB[0..klen)` (R112). -/
def keyOperand (s : State) : List Byte := bytesOf (keyByte s) s.keyLen.toNat

/-- The frame operand of a command, `IN[0..dlen)` (R112). -/
def frameOperand (s : State) : List Byte := bytesOf (inByte s) s.dataLen.toNat

end Sys2Proof.Machine
end

