-- ==== Sys2Proof/Machine/Padding.lean ====
section
/-! DEFINITION. The padding controller (spec/41_padding.md): PAD (R170) and UNPAD (R173). -/

namespace Sys2Proof.Machine

/-- The padding count of a frame of `len` bytes: `16 - (len mod 16)`, from 1 to 16 (R170). -/
def padCount (len : Nat) : Nat := 16 - len % 16

/-- `PAD(p)` (R170). -/
def pad (p : List Byte) : List Byte :=
  p ++ List.replicate (padCount p.length) (BitVec.ofNat 8 (padCount p.length))

/-- The last byte of a decrypted frame, as a count (R173). -/
def lastByte (q : List Byte) : Byte := q.getD (q.length - 1) 0

/-- `UNPAD(q)`; `none` is FAIL (R173). -/
def unpad (q : List Byte) : Option (List Byte) :=
  if 1 ≤ (lastByte q).toNat ∧ (lastByte q).toNat ≤ 16 ∧
      ∀ x ∈ q.drop (q.length - (lastByte q).toNat), x = lastByte q then
    some (q.take (q.length - (lastByte q).toNat))
  else none

end Sys2Proof.Machine
end

