-- ==== Sys2Proof/Machine/Sequencer.lean ====
section
/-! DEFINITION. The ECB frame sequencer (spec/43_frame_sequencer.md): RESULT (R235) over blocks
that are transformed independently (R242), and the engine's one step (R250). -/

namespace Sys2Proof.Machine

/-- Every 16-byte block of a byte sequence through one block function, in order and with no
chaining (R235, R242). -/
def ecb (f : Block → Block) (q : List Byte) : List Byte :=
  (List.range (q.length / 16)).flatMap fun j => blockBytes (f (blockAt q (16 * j)))

/-- ENCRYPT's bytes for a frame: pad, then encipher every block (R235, R176). -/
def encryptFrame (w : List Quad) (nr : Nat) (frame : List Byte) : List Byte :=
  ecb (fun b => cipher b w nr) (pad frame)

/-- DECRYPT's bytes for a ciphertext before the padding check (R235). -/
def decryptFrame (w : List Quad) (nr : Nat) (frame : List Byte) : List Byte :=
  ecb (fun b => invCipher b w nr) frame

/-- `RESULT(op, kp, dp, klen, keyb, dlen, in)`, with MAX_FRAME_BYTES as its last argument: the
checks in the order of R236, then the schedule and the frame (R235). -/
def result (op : Op) (kp dp : Bool) (klen : Word) (keyb : Nat → Byte) (dlen : Word)
    (inb : Nat → Byte) (maxFrame : Nat) : Result :=
  if ¬(kp ∧ dp) then .absent .absentInput
  else
    match select klen with
    | none => .absent .keyLength
    | some (nk, nr) =>
      if op = .decrypt ∧ (dlen = 0 ∨ dlen.toNat % 16 ≠ 0) then .absent .ctLength
      else if maxFrame < dlen.toNat then .absent .capacity
      else
        match op with
        | .encrypt =>
          .value (encryptFrame (keyExpansion (bytesOf keyb klen.toNat) nk nr) nr
            (bytesOf inb dlen.toNat))
        | .decrypt =>
          match unpad (decryptFrame (keyExpansion (bytesOf keyb klen.toNat) nk nr) nr
            (bytesOf inb dlen.toNat)) with
          | none => .absent .badPadding
          | some p => .value p

/-- RESULT on the operands as they stand in the registers and IN_BUF (R112). -/
def commandResult (op : Op) (s : State) : Result :=
  result op s.keyPresent s.dataPresent s.keyLen (keyByte s) s.dataLen (inByte s) s.maxFrame

/-- The engine's turn: the completion step, enabled exactly when `PHASE = RUN` (R250). -/
def engineStep (s : State) : State :=
  match s.phase with
  | .idle => s
  | .run op => complete (commandResult op s) s

end Sys2Proof.Machine
end

