-- ==== Sys2Proof/Machine/Commands.lean ====
section
/-! DEFINITION. The command words (R230 to R234, R240, R241): the dispatch of a CMD write (R231)
and the meaning of each of the four command instructions, which is what the CMD write of that word
does (log 3). -/

namespace Sys2Proof.Machine

/-- The dispatch of a word written to CMD (R231). -/
def dispatch (cw : Word) : State → State :=
  presentCommand fun s =>
    if cw = 0x00000000#32 then s
    else if cw = 0x00000001#32 then accept .encrypt s
    else if cw = 0x00000002#32 then accept .decrypt s
    else setIllegalCmd s

/-- `NOP` (R230). -/
def execNop (s : State) : Host.Outcome State Fault Refusal :=
  .next (respond .ok (presentCommand (fun t => t) s))

/-- `ENCRYPT` (R233): its acceptance; the engine's turn completes it. -/
def execEncrypt (s : State) : Host.Outcome State Fault Refusal :=
  .next (respond .ok (presentCommand (accept .encrypt) s))

/-- `DECRYPT` (R234): its acceptance; the engine's turn completes it. -/
def execDecrypt (s : State) : Host.Outcome State Fault Refusal :=
  .next (respond .ok (presentCommand (accept .decrypt) s))

/-- `ILLEGAL` (R240): whatever the fields of the word hold. -/
def execIllegal (_op : BitVec 4) (_rsvd : BitVec 28) (s : State) :
    Host.Outcome State Fault Refusal :=
  .next (respond .ok (presentCommand setIllegalCmd s))

end Sys2Proof.Machine
end

