-- ==== Sys2Proof/Machine/Transfers.lean ====
section
/-! DEFINITION. The host bus transactions (spec/44_bus_access.md): HOST_READ (R282), HOST_WRITE
(R283) and the six transaction kinds (R293 to R298). -/

namespace Sys2Proof.Machine

/-! ## Reads -/

/-- What a register reads (R282). -/
def readReg (s : State) : RegName → Word
  | .id => 0x41455331#32
  | .caps => capsWord s
  | .ctrl => ctrlWord s
  | .cmd => 0
  | .status => statusWord s
  | .err => errWord s
  | .irqStatus => irqStatusWord s
  | .present => presentWord s
  | .keyLen => s.keyLen
  | .dataLen => s.dataLen
  | .outLen => s.outLen
  | .key _ => 0

/-- `HOST_READ` of `n` bytes at a legal target (R282). -/
def readTarget (s : State) (n : Width) : Target → Word
  | .reg r => readReg s r
  | .input i => leValue (fun k => inByte s (i + k)) n.bytes
  | .output i => leValue (fun k => outVis s (i + k)) n.bytes

/-- A read transaction: OK with the data, or BUS_ERROR (R280, R281). -/
def hostRead (n : Width) (off : Offset) (s : State) : State :=
  match target s.maxFrame off.toNat n with
  | none => busError s
  | some t => respond (.data n (readTarget s n t)) s

/-! ## Writes -/

/-- A write to an input-side register while idle (R283). -/
def writeKey (j : Fin 8) (v : Word) (s : State) : State := { s with key := s.key.set j v }

/-- A write of a whole word to a register (R283, R289). -/
def writeReg (v : Word) : RegName → State → State
  | .id, s => s
  | .caps, s => s
  | .ctrl, s => writeCtrl v s
  | .cmd, s => dispatch v s
  | .status, s => s
  | .err, s => clearErr v s
  | .irqStatus, s => clearIrq v s
  | .present, s => inputWrite (writePresent v) s
  | .keyLen, s => inputWrite (fun t => { t with keyLen := v }) s
  | .dataLen, s => inputWrite (fun t => { t with dataLen := v }) s
  | .outLen, s => s
  | .key j, s => inputWrite (writeKey j v) s

/-- `HOST_WRITE` of the low `n` bytes of `v` at a legal target (R283). -/
def writeTarget (n : Width) (v : Word) (s : State) : Target → State
  | .reg r => writeReg v r s
  | .input i => inputWrite (fun t => { t with inBuf := storeIn v i n.bytes t.inBuf }) s
  | .output _ => s

/-- A write transaction: OK after its effect, or BUS_ERROR (R280, R281). -/
def hostWrite (n : Width) (off : Offset) (v : Word) (s : State) : State :=
  match target s.maxFrame off.toNat n with
  | none => busError s
  | some t => respond .ok (writeTarget n v s t)

/-! ## The transaction kinds -/

/-- `RD8 off` (R293). -/
def execRd8 (off : Offset) (s : State) : Host.Outcome State Fault Refusal :=
  .next (hostRead .one off s)

/-- `RD16 off` (R294). -/
def execRd16 (off : Offset) (s : State) : Host.Outcome State Fault Refusal :=
  .next (hostRead .two off s)

/-- `RD32 off` (R295). -/
def execRd32 (off : Offset) (s : State) : Host.Outcome State Fault Refusal :=
  .next (hostRead .four off s)

/-- `WR8 off, d` (R296). -/
def execWr8 (off : Offset) (d : BitVec 8) (s : State) : Host.Outcome State Fault Refusal :=
  .next (hostWrite .one off (d.setWidth 32) s)

/-- `WR16 off, d` (R297). -/
def execWr16 (off : Offset) (d : BitVec 16) (s : State) : Host.Outcome State Fault Refusal :=
  .next (hostWrite .two off (d.setWidth 32) s)

/-- `WR32 off, d` (R298). -/
def execWr32 (off : Offset) (d : BitVec 32) (s : State) : Host.Outcome State Fault Refusal :=
  .next (hostWrite .four off d s)

end Sys2Proof.Machine
end

