-- ==== Sys2Proof/Machine/Dispatch.lean ====
section
/-! DEFINITION. One arm per instruction: each calls the instruction's meaning. -/

namespace Sys2Proof.Machine

def exec (i : Instr) (s : State) : Host.Outcome State Fault Refusal :=
  match i with
  | .nop => Sys2Proof.Machine.execNop s
  | .encrypt => Sys2Proof.Machine.execEncrypt s
  | .decrypt => Sys2Proof.Machine.execDecrypt s
  | .illegal op rsvd => Sys2Proof.Machine.execIllegal op rsvd s
  | .rd8 off => Sys2Proof.Machine.execRd8 off s
  | .rd16 off => Sys2Proof.Machine.execRd16 off s
  | .rd32 off => Sys2Proof.Machine.execRd32 off s
  | .wr8 off d => Sys2Proof.Machine.execWr8 off d s
  | .wr16 off d => Sys2Proof.Machine.execWr16 off d s
  | .wr32 off d => Sys2Proof.Machine.execWr32 off d s

end Sys2Proof.Machine
end

