-- ==== Sys2Proof/Machine/Agents.lean ====
section
/-! DEFINITION. What surrounds an instruction in a step: the reset input (R350 to R352), bus
accesses by address (R81), the hidden datapath while a command runs (R52 to R56), and the fetch of
the host's next instruction. -/

namespace Sys2Proof.Machine

/-! ## Reset -/

/-- The reset input: every piece of state takes its reset value and a running command is abandoned
(R350 to R352). MAX_FRAME_BYTES is no state of a run, the outside's further events stay, and the
free values are fresh (log 9, log 17). -/
def resetEvent (s : State) : State :=
  { State.reset with
    maxFrame := s.maxFrame
    resets   := s.resets + 1
    draws    := s.draws
    schedule := s.schedule }

/-! ## The hidden datapath while a command runs -/

/-- The number of blocks a command transforms (R235, R171). -/
def blockCount : Op → Nat → Nat
  | .encrypt, len => len / 16 + 1
  | .decrypt, len => len / 16

/-- The limits the spec sets on the hidden datapath of a frame of `blocks` blocks: the recorded
configurations and the zero words past the schedule (R54), and the ranges of the counters (R55). -/
abbrev Datapath.Legal (blocks : Nat) (d : Datapath) : Prop :=
  (d.NK, d.NR) ∈ [(0, 0), (4, 10), (6, 12), (8, 14)] ∧
  (d.BLK = 0 ∨ d.BLK < blocks) ∧ d.RND ≤ d.NR ∧ d.PADN ≤ 16 ∧
  (d.NR ≠ 0 → ∀ q ∈ d.W.toList.drop (4 * d.NR + 4), q = Quad.zero)

/-- A free value of the hidden datapath within those limits (I6, log 10). -/
def freeDatapath (n blocks : Nat) : Datapath :=
  if Datapath.Legal blocks (Config.rawDatapath n) then Config.rawDatapath n else Datapath.zero

/-- After a step that leaves a command running, the hidden datapath is wherever the implementation's
sub-phases have brought it: a fresh free value (R52, R56, I6). -/
def settle (s : State) : State :=
  match s.phase with
  | .idle => s
  | .run op =>
    { s with
      datapath := freeDatapath s.draws (blockCount op s.dataLen.toNat)
      draws    := s.draws + 1 }

/-! ## Fetching what happens next -/

/-- The transaction of `n` bytes at an offset. -/
def accessInstr (write : Bool) (n : Width) (off : Offset) (data : Word) : Instr :=
  match write, n with
  | false, .one => .rd8 off
  | false, .two => .rd16 off
  | false, .four => .rd32 off
  | true, .one => .wr8 off (data.setWidth 8)
  | true, .two => .wr16 off (data.setWidth 16)
  | true, .four => .wr32 off data

/-- Continue with `f` from a next state; a fault or refusal stays. -/
def mapNext (f : State → State) :
    Host.Outcome State Fault Refusal → Host.Outcome State Fault Refusal
  | .next s => .next (f s)
  | .fault r => .fault r
  | .refused r => .refused r

/-- The instruction the host's bytes encode is performed; bytes that encode none are refused by
name (R117). -/
def runBytes (bytes : List Byte) (s : State) : Host.Outcome State Fault Refusal :=
  match decode bytes with
  | .ok i => mapNext settle (exec i s)
  | .error why => .refused (.notATransaction why)

/-- An access to a bus address: the transaction at its offset, or, where the address does not reach
the block, nothing (R81). -/
def runBus (write : Bool) (n : Width) (addr : Nat) (data : Word) (s : State) :
    Host.Outcome State Fault Refusal :=
  match busOffset addr with
  | some off => mapNext settle (exec (accessInstr write n off data) s)
  | none => .next (settle s)

/-- One event at the state from which it has been taken. -/
def runEvent (s : State) : Event → Host.Outcome State Fault Refusal
  | .host bytes => runBytes bytes s
  | .bus write n addr data => runBus write n addr data s
  | .engine => .next (settle (engineStep s))
  | .reset => .next (resetEvent s)

/-- The next step of the machine. Where nothing is scheduled the outside is quiet, and the only
step left is the engine's: it completes a running command, and an idle block does nothing (R371,
R335, log 2). -/
def nextStep (s : State) : Host.Outcome State Fault Refusal :=
  match s.schedule with
  | [] => .next (settle (engineStep s))
  | e :: rest => runEvent { s with schedule := rest } e

/-- The state with the host's next instruction put first in the schedule. -/
def scheduleFirst (bytes : List Byte) (s : State) : State :=
  { s with schedule := .host bytes :: s.schedule }

end Sys2Proof.Machine
end

