-- ==== Sys2Proof/Machine/Step.lean ====
section
/-! DEFINITION. One step of the machine, and the state whose next step runs a given word. -/

namespace Sys2Proof.Machine

/-- One step: the first event of the schedule, or the engine's turn when there is none. -/
def step (s : State) : Host.Outcome State Fault Refusal := nextStep s

/-- The state whose next step is the instruction of the word `w`, numbered as the opcode table
numbers it: the host's next event (log 5). -/
def State.withFetchWord (s : State) (nbits w : Nat) : State :=
  scheduleFirst (tableBytes nbits w) s

end Sys2Proof.Machine
end

