-- ==== Sys2Proof/Machine/Pseudo.lean ====
section
/-! DEFINITION. The host's notation (spec/30_encoding.md §3), which is a test harness's and no
hardware interface: the pseudo-operations as the transactions they expand to (R118) and the text
of a transaction (R116). -/

namespace Sys2Proof.Machine

/-! ## Pseudo-operations (R118) -/

/-- A 4-byte write at an aperture offset. -/
def storeWord (off : Offset) (v : Word) : Instr := .wr32 off v

/-- Bytes `4j .. 4j+3` of a sequence as a little-endian word, missing bytes 0 (R88, R118). -/
def sequenceWord (bytes : List Byte) (j : Nat) : Word :=
  leValue (fun k => bytes.getD (4 * j + k) 0) 4

/-- The 4-byte writes of a sequence from offset `off` on, a multiple of 4: `⌈L/4⌉` of them (R118). An
offset does not wrap around (R10) and has 18 bits (R80, R117). DESIGN CHOICE (log 28): a sequence with a
word past them has no expansion at all. -/
def storeSequence (off : Nat) (bytes : List Byte) : Option (List Instr) :=
  if off + bytes.length ≤ 0x40000 then
    some ((List.range ((bytes.length + 3) / 4)).map fun j =>
      storeWord (BitVec.ofNat 18 (off + 4 * j)) (sequenceWord bytes j))
  else none

/-- `NOPC` (R118). -/
def expandNopc : List Instr := [storeWord 0x0000C#18 0]

/-- `ENC` (R118). -/
def expandEnc : List Instr := [storeWord 0x0000C#18 1]

/-- `DEC` (R118). -/
def expandDec : List Instr := [storeWord 0x0000C#18 2]

/-- `LDKEY k0..k(L-1)` for `L` from 0 to 32; there is no such pseudo-operation for a longer list
(R118). -/
def expandLdkey (key : List Byte) : Option (List Instr) :=
  if key.length ≤ 32 then
    (storeSequence 0x040 key).map fun is => is ++ [storeWord 0x00020#18 (BitVec.ofNat 32 key.length)]
  else none

/-- `LDBUF b0..b(L-1)` (R118); none past 0x30000 bytes (log 28), where `IN+4j` is no offset. So
neither an offset nor the `L` written to DATA_LEN wraps around (R10). -/
def expandLdbuf (frame : List Byte) : Option (List Instr) :=
  (storeSequence 0x10000 frame).map fun is =>
    is ++ [storeWord 0x00024#18 (BitVec.ofNat 32 frame.length)]

/-- `SETP kp, dp` (R118). -/
def expandSetp (kp dp : Bool) : List Instr := [storeWord 0x0001C#18 (flagBit dp 1 ||| flagBit kp 0)]

/-- `ACKIRQ` (R118). -/
def expandAckirq : List Instr := [storeWord 0x00018#18 1]

/-- The read that `POLL <off>, ..` repeats (R118). -/
def pollRead (off : Offset) : Instr := .rd32 off

/-- Does `POLL .., <mask>, <val>` end on the value that its read returned (R118)? -/
def pollEnds (mask val v : Word) : Bool := v &&& mask == val

/-- The read that `WAITDONE` repeats: `POLL STATUS, 0x3, 0x2` (R118). -/
def waitDoneRead : Instr := pollRead 0x00010#18

/-- Does `WAITDONE` end on this value of STATUS (R118)? -/
def waitDoneEnds (v : Word) : Bool := pollEnds 0x3 0x2 v

/-! ## Text (R116) -/

/-- The name of a register in the text of a transaction (R116). -/
def regText : RegName → String
  | .id => "ID"
  | .caps => "CAPS"
  | .ctrl => "CTRL"
  | .cmd => "CMD"
  | .status => "STATUS"
  | .err => "ERR"
  | .irqStatus => "IRQ_STATUS"
  | .present => "PRESENT"
  | .keyLen => "KEY_LEN"
  | .dataLen => "DATA_LEN"
  | .outLen => "OUT_LEN"
  | .key j => "KEY" ++ toString j.val

/-- `<off>`: a register's name, `IN+<i>`, `OUT+<i>`, or a number (R116). -/
def offsetText (off : Nat) : String :=
  match regAt off with
  | some r => regText r
  | none =>
    if off < 0x10000 then toString off
    else if off < 0x20000 then "IN+" ++ toString (off - 0x10000)
    else if off < 0x30000 then "OUT+" ++ toString (off - 0x20000)
    else toString off

/-- The line of a transaction (R116); a command stands as the CMD write of its word (log 3). -/
def instrText : Instr → String
  | .nop => "WR32 CMD, 0"
  | .encrypt => "WR32 CMD, 1"
  | .decrypt => "WR32 CMD, 2"
  | .illegal op rsvd => "WR32 CMD, " ++ toString (joinCommand op rsvd).toNat
  | .rd8 off => "RD8 " ++ offsetText off.toNat
  | .rd16 off => "RD16 " ++ offsetText off.toNat
  | .rd32 off => "RD32 " ++ offsetText off.toNat
  | .wr8 off d => "WR8 " ++ offsetText off.toNat ++ ", " ++ toString d.toNat
  | .wr16 off d => "WR16 " ++ offsetText off.toNat ++ ", " ++ toString d.toNat
  | .wr32 off d => "WR32 " ++ offsetText off.toNat ++ ", " ++ toString d.toNat

end Sys2Proof.Machine
end

