-- ==== Sys2Proof/Safety.lean ====
section
/-! DEFINITION. The terms in which claims speak of a good state and a good run: the legal values of
the parameters (R8), the invariants of STATUS, of the engine phase, of the result registers, of the
buffers and of the hidden datapath, the legal accesses (R281), and the relations between states
that differ only where nobody can see (R56) or only in the key (R93). -/

namespace Sys2Proof.Machine

/-! ## Invariants -/

/-- The legal values of MAX_FRAME_BYTES (R8). -/
abbrev ParamsLegal (s : State) : Prop :=
  s.maxFrame % 16 = 0 ∧ 16 ≤ s.maxFrame ∧ s.maxFrame ≤ 65520

/-- The invariants of STATUS (R36), and CAUSE's produced codes (R40, R310). -/
abbrev StatusInv (s : State) : Prop :=
  (s.busy = true → s.done = false) ∧
  (s.done = false → s.value = false ∧ s.cause = 0) ∧
  (s.value = true → s.cause = 0) ∧
  (s.done = true → s.value = false → s.cause ≠ 0) ∧
  s.cause.toNat ≤ 5

/-- `STATUS.BUSY = 1` exactly when `PHASE = RUN` (R52). -/
abbrev PhaseInv (s : State) : Prop := s.busy = true ↔ s.phase ≠ .idle

/-- OUT_LEN is 0 unless a Value result stands, and fits OUT_BUF (R47, R252). -/
abbrev OutLenInv (s : State) : Prop :=
  (¬(s.done = true ∧ s.value = true) → s.outLen = 0) ∧ s.outLen.toNat ≤ s.maxFrame + 16

/-- Both buffers are in canonical form and within their sizes (R48, R49). -/
abbrev BufferInv (s : State) : Prop :=
  Memory.wf .input s.inBuf ∧ Memory.below s.maxFrame s.inBuf ∧
  Memory.wf .output s.outBuf ∧ Memory.below (s.maxFrame + 16) s.outBuf

/-- While no command runs, OUT_BUF stores 0x00 past the result: past OUT_LEN after a Value, and
everywhere otherwise (R49, R250). -/
abbrev OutBufInv (s : State) : Prop := s.phase = .idle → Memory.below s.outLen.toNat s.outBuf

/-- The hidden datapath is zero while no command runs (R53 to R55, R57), and within its limits
while one does. -/
def DatapathInv (s : State) : Prop :=
  match s.phase with
  | .idle => s.datapath = Datapath.zero
  | .run op => Datapath.Legal (blockCount op s.dataLen.toNat) s.datapath

/-- The invariant of the block. -/
structure Inv (s : State) : Prop where
  params   : ParamsLegal s
  status   : StatusInv s
  phase    : PhaseInv s
  outLen   : OutLenInv s
  buffers  : BufferInv s
  outBuf   : OutBufInv s
  datapath : DatapathInv s

/-! ## Legal accesses -/

/-- The offsets that name a register (spec/10_state.md §2). -/
def registerOffsets : List Nat :=
  [0x000, 0x004, 0x008, 0x00C, 0x010, 0x014, 0x018, 0x01C, 0x020, 0x024, 0x028,
   0x040, 0x044, 0x048, 0x04C, 0x050, 0x054, 0x058, 0x05C]

/-- A transaction of `n` bytes at offset `off` is legal, in the words of R281. -/
abbrev LegalAccess (maxFrame off n : Nat) : Prop :=
  off < 0x30000 ∧
  (off < 0x10000 → n = 4 ∧ off % 4 = 0 ∧ off ∈ registerOffsets) ∧
  (0x10000 ≤ off → off < 0x20000 → off % n = 0 ∧ off - 0x10000 + n ≤ maxFrame) ∧
  (0x20000 ≤ off → off % n = 0 ∧ off - 0x20000 + n ≤ maxFrame + 16)

/-! ## Relations between states -/

/-- The state with the response that ends a transaction and nothing else changed (R280). -/
def State.answering (s : State) (r : Response) : State := { s with response := some r }

/-- Everything `RESULT` reads (R112, R286) is the same in both states. -/
structure SameInputs (s t : State) : Prop where
  maxFrame    : t.maxFrame = s.maxFrame
  keyPresent  : t.keyPresent = s.keyPresent
  dataPresent : t.dataPresent = s.dataPresent
  keyLen      : t.keyLen = s.keyLen
  dataLen     : t.dataLen = s.dataLen
  key         : t.key = s.key
  frame       : ∀ i, inByte t i = inByte s i

/-- The result registers and OUT_BUF are the same in both states. -/
structure SameOutput (s t : State) : Prop where
  done   : t.done = s.done
  value  : t.value = s.value
  cause  : t.cause = s.cause
  outLen : t.outLen = s.outLen
  out    : ∀ i, outByte t i = outByte s i

/-- The two states differ at most in the hidden datapath and in the model's own draw counter. -/
def SameButDatapath (s t : State) : Prop :=
  t = { s with datapath := t.datapath, draws := t.draws }

/-- What completion must leave of the command's secrets: nothing (R57). -/
structure Zeroized (s : State) : Prop where
  key         : ∀ i, keyByte s i = 0
  keyLen      : s.keyLen = 0
  keyPresent  : s.keyPresent = false
  dataPresent : s.dataPresent = false
  datapath    : s.datapath = Datapath.zero

/-- The host's instructions one after another, with nothing between them (R94). -/
def performAll : List Instr → State → Host.Outcome State Fault Refusal
  | [], s => .next s
  | i :: is, s =>
    match exec i s with
    | .next t => performAll is t
    | .fault r => .fault r
    | .refused r => .refused r

/-- A host event that only carries a decodable instruction, or a bus access. -/
def HostEvent : Event → Prop
  | .host bytes => ∃ i, decode bytes = .ok i
  | .bus .. => True
  | .engine => False
  | .reset => False

end Sys2Proof.Machine
end

