-- ==== Sys2Proof/Certificates/Slice0/Obligations.lean ====
section
/-! DEFINITION. The statements for the provers. Each docstring names the rules of the spec it rests
on, and says where a clause is the model's own choice. -/

open Sys2Proof Sys2Proof.Machine

/-! ## Encoding -/

/-- R111: the decode of a command word, total over all words; a word whose OP is 0, 1 or 2 with a
RSVD bit set is ILLEGAL. The last clause is the model's choice: the decoder reads the word from its
four bytes, least significant first (log 4). -/
def Obligations.CommandWordDecode : Prop :=
  ∀ cw : Word,
    (cw = 0x00000000#32 → decodeCommand cw = .nop) ∧
    (cw = 0x00000001#32 → decodeCommand cw = .encrypt) ∧
    (cw = 0x00000002#32 → decodeCommand cw = .decrypt) ∧
    (cw ≠ 0x00000000#32 → cw ≠ 0x00000001#32 → cw ≠ 0x00000002#32 →
      decodeCommand cw = .illegal (cw.extractLsb' 0 4) (cw.extractLsb' 4 28)) ∧
    decode (commandBytes cw) = .ok (decodeCommand cw)

/-- Words written out in 30_encoding.md and 95_test_vectors.md decode to their transactions. -/
def Obligations.SpecWordsDecode : Prop :=
  decodeTableWord 64 0xC000000C00000001 = some (.wr32 0x0000C#18 1#32) ∧
  decodeTableWord 64 0x4000001000000000 = some (.rd32 0x00010#18) ∧
  decodeTableWord 64 0x2001000200000000 = some (.rd16 0x10002#18) ∧
  decodeTableWord 64 0x0001001000000000 = some (.rd8 0x10010#18) ∧
  decodeTableWord 64 0xA001000C00000D0C = some (.wr16 0x1000C#18 0x0D0C#16) ∧
  decodeTableWord 64 0x8002000000000055 = some (.wr8 0x20000#18 0x55#8) ∧
  decodeTableWord 64 0x6000000000000000 = none ∧
  decodeTableWord 32 0x00000011 = some (.illegal 0x1#4 0x1#28)

/-- R110, R117: decoding an encoded well-formed instruction gives it back, for every operand. -/
def Obligations.DecodeOfEncode : Prop :=
  ∀ i : Instr, i.wellFormed = true → decode (encode i) = .ok i

/-- R114: each of the 2^32 command words is the word of exactly one well-formed command. -/
def Obligations.EncodeOfDecodedCommand : Prop :=
  ∀ cw : Word, (decodeCommand cw).wellFormed = true ∧ (decodeCommand cw).isCommand = true ∧
    encode (decodeCommand cw) = commandBytes cw

/-- R117: a transaction word that decodes and whose ignored DATA bits are 0 is the word of the
instruction it decodes to. That a read's DATA is ignored is the model's reading (log 6). -/
def Obligations.EncodeOfDecodedTransaction : Prop :=
  ∀ (w : TxnWord) (i : Instr), decode (txnBytes w) = .ok i →
    (txnWrite w = 0#1 → txnData w = 0#32) →
    (txnWrite w = 1#1 → (txnSize w = 0#2 → (txnData w).toNat < 2 ^ 8) ∧
      (txnSize w = 1#2 → (txnData w).toNat < 2 ^ 16)) →
    encode i = txnBytes w

/-- R117: a 64-bit word with SZ = 3 or a nonzero RSVD is not a transaction, and the step that meets
it refuses it by name; every other word is performed. -/
def Obligations.NonTransactionsRefused : Prop :=
  ∀ (s : State) (w : TxnWord) (rest : List Event), s.schedule = .host (txnBytes w) :: rest →
    ((txnSize w = 3#2 ∨ txnRsvd w ≠ 0#11) ↔ ∃ why, step s = .refused (.notATransaction why))

/-! ## Steps -/

/-- A step whose next event carries the bytes of an instruction is that instruction, with the event
taken off the schedule; around it the step only redraws the hidden datapath while a command runs
(`settle`, log 10). -/
def Obligations.StepRunsDecodedInstruction : Prop :=
  ∀ (s : State) (bytes : List Byte) (rest : List Event) (i : Instr),
    s.schedule = .host bytes :: rest → decode bytes = .ok i →
    step s = mapNext settle (exec i { s with schedule := rest })

/-- The step of a state with a table word put first runs the instruction of that word (log 5). -/
def Obligations.FetchWordRunsInstruction : Prop :=
  ∀ (s : State) (nbits w : Nat) (i : Instr), decodeTableWord nbits w = some i →
    step (s.withFetchWord nbits w) = mapNext settle (exec i s)

/-- R250, R350, R335, R371: the events of the engine and of the reset input; with nothing scheduled
an idle block keeps all its state and a running command completes. That a quiet outside leaves the
next step to the engine is the model's choice (log 2). -/
def Obligations.StepWithoutHost : Prop :=
  ∀ (s : State) (rest : List Event),
    (s.schedule = .engine :: rest → step s = .next (settle (engineStep { s with schedule := rest }))) ∧
    (s.schedule = .reset :: rest → step s = .next (resetEvent { s with schedule := rest })) ∧
    (s.schedule = [] → s.phase = .idle → step s = .next s) ∧
    (∀ op, s.schedule = [] → s.phase = .run op → step s = .next (complete (commandResult op s) s))

/-- R81: a bus address `a` is the transaction at offset `a - BASE`; an address outside the aperture
does not reach the block, whose state only loses the event. -/
def Obligations.BusAddressReachesOffset : Prop :=
  ∀ (s : State) (write : Bool) (n : Width) (data : Word) (rest : List Event),
    (∀ off, off < 0x30000 → s.schedule = .bus write n (Config.base + off) data :: rest →
      step s = mapNext settle (exec (accessInstr write n (BitVec.ofNat 18 off) data) { s with schedule := rest })) ∧
    (∀ a, (a < Config.base ∨ Config.base + 0x30000 ≤ a) → s.schedule = .bus write n a data :: rest →
      step s = .next (settle { s with schedule := rest }))

/-- R314, R255: the block never stops. The only step without a next state is one at host bytes that
encode no instruction, which the harness refuses (R117). -/
def Obligations.BlockNeverStops : Prop :=
  ∀ s : State, (∃ t, step s = .next t) ∨
    (∃ bytes rest why, s.schedule = .host bytes :: rest ∧ decode bytes = .error why ∧
      step s = .refused (.notATransaction why))

/-! ## Commands -/

/-- R230: NOP changes no register, flag, buffer or output while idle, and counts as a command while
busy. The write's response is OK. -/
def Obligations.NopChangesNothing : Prop :=
  ∀ s : State,
    (s.busy = false → exec .nop s = .next (s.answering .ok)) ∧
    (s.busy = true → exec .nop s = .next { s with cmdWhileBusy := true, response := some .ok })

/-- R232: acceptance while idle. OPR is the operation in `Phase.run` (log 18): NONE at reset and
after completion. The equalities say of all state that nothing else changes; for two parts that is the
model's choice and no rule's: that the stored OUT_BUF bytes stay at acceptance is log 11 (the spec leaves
them open, I7), and that the hidden datapath stays until the step's redraw is log 10 (I6). That a command
instruction is the CMD write of its word is log 3. -/
def Obligations.CommandAcceptance : Prop :=
  (∀ s : State, s.busy = false →
    exec .encrypt s = .next { s with
      phase := .run .encrypt, busy := true, done := false, value := false, cause := 0, outLen := 0,
      response := some .ok } ∧
    exec .decrypt s = .next { s with
      phase := .run .decrypt, busy := true, done := false, value := false, cause := 0, outLen := 0,
      response := some .ok }) ∧
  State.reset.phase = .idle ∧ (∀ s op, s.phase = .run op → (engineStep s).phase = .idle)

/-- R240: every word but 0, 1 and 2, written while idle, sets ERR.ILLEGAL_CMD and changes nothing
else; the response is OK. -/
def Obligations.IllegalWordSetsFlagOnly : Prop :=
  ∀ (cw : Word) (s : State), cw ≠ 0 → cw ≠ 1 → cw ≠ 2 → s.busy = false →
    exec (decodeCommand cw) s = .next { s with illegalCmd := true, response := some .ok }

/-- R241: any command word while busy sets only ERR.CMD_WHILE_BUSY and is otherwise discarded; the
response is OK. -/
def Obligations.CommandWhileBusyDiscarded : Prop :=
  ∀ (cw : Word) (s : State), s.busy = true →
    exec (decodeCommand cw) s = .next { s with cmdWhileBusy := true, response := some .ok }

/-- R231, R232: the dispatch of a 4-byte write to CMD, with response OK; the narrower writes get
BUS_ERROR before dispatch (R82). In the two acceptance clauses the equality of states also says what is
the model's choice and no rule's: that the stored OUT_BUF bytes stay is log 11 (I7), and that the hidden
datapath stays until the step's redraw is log 10 (I6). -/
def Obligations.CmdWriteDispatch : Prop :=
  ∀ (cw : Word) (s : State),
    (s.busy = true → exec (.wr32 0x0000C#18 cw) s = .next { s with cmdWhileBusy := true, response := some .ok }) ∧
    (s.busy = false →
      (cw = 0 → exec (.wr32 0x0000C#18 cw) s = .next (s.answering .ok)) ∧
      (cw = 1 → exec (.wr32 0x0000C#18 cw) s = .next { s with
        phase := .run .encrypt, busy := true, done := false, value := false, cause := 0, outLen := 0,
        response := some .ok }) ∧
      (cw = 2 → exec (.wr32 0x0000C#18 cw) s = .next { s with
        phase := .run .decrypt, busy := true, done := false, value := false, cause := 0, outLen := 0,
        response := some .ok }) ∧
      (cw ≠ 0 → cw ≠ 1 → cw ≠ 2 →
        exec (.wr32 0x0000C#18 cw) s = .next { s with illegalCmd := true, response := some .ok })) ∧
    (∀ d, exec (.wr8 0x0000C#18 d) s = .next (s.answering .busError)) ∧
    (∀ d, exec (.wr16 0x0000C#18 d) s = .next (s.answering .busError))

/-- R35, R231: a command instruction is what the 4-byte write of its word to CMD does (log 3). -/
def Obligations.CommandIsCmdWrite : Prop :=
  ∀ (cw : Word) (s : State), exec (.wr32 0x0000C#18 cw) s = exec (decodeCommand cw) s

/-- The frame of NOP, ENCRYPT, DECRYPT and ILLEGAL (R230, R232, R240, R241): operands, IN_BUF and
OUT_BUF bytes, CTRL, IRQ_STATUS, WRITE_WHILE_BUSY and the hidden datapath are unchanged; the result
registers change only by the acceptance of ENCRYPT or DECRYPT (R364). Two clauses are the model's
choice where ENCRYPT or DECRYPT is accepted, and no rule's: that the stored OUT_BUF bytes stay is log 11
(the spec leaves them open, I7), and that the hidden datapath stays until the step's redraw is log 10
(I6). That a command instruction is the CMD write of its word is log 3. -/
def Obligations.CommandFrame : Prop :=
  ∀ (cw : Word) (s t : State), exec (decodeCommand cw) s = .next t →
    SameInputs s t ∧ (∀ i, outByte t i = outByte s i) ∧
    t.irqEn = s.irqEn ∧ t.irqDone = s.irqDone ∧ t.writeWhileBusy = s.writeWhileBusy ∧
    t.datapath = s.datapath ∧ t.resets = s.resets ∧ t.draws = s.draws ∧ t.schedule = s.schedule ∧
    (s.busy = true ∨ (cw ≠ 1 ∧ cw ≠ 2) →
      SameOutput s t ∧ t.phase = s.phase ∧ t.busy = s.busy ∧ ∀ i, outVis t i = outVis s i)

/-! ## RESULT -/

/-- R239: an absent operand gives ABSENT_INPUT whatever everything else is; present operands, empty
ones too, never give it. -/
def Obligations.AbsentOperandFirst : Prop :=
  ∀ (op : Op) (kp dp : Bool) (klen : Word) (keyb : Nat → Byte) (dlen : Word) (inb : Nat → Byte) (m : Nat),
    (kp = false ∨ dp = false → result op kp dp klen keyb dlen inb m = .absent .absentInput) ∧
    (kp = true → dp = true → result op kp dp klen keyb dlen inb m ≠ .absent .absentInput)

/-- R140: SELECT, and the KEY_LENGTH error (CAUSE 2) of an unsupported length. -/
def Obligations.KeyLengthSelection : Prop :=
  (∀ klen : Word,
    (select klen = some (4, 10) ↔ klen = 16) ∧ (select klen = some (6, 12) ↔ klen = 24) ∧
    (select klen = some (8, 14) ↔ klen = 32) ∧
    (select klen = none ↔ klen ≠ 16 ∧ klen ≠ 24 ∧ klen ≠ 32)) ∧
  (∀ (op : Op) (klen : Word) (keyb : Nat → Byte) (dlen : Word) (inb : Nat → Byte) (m : Nat),
    select klen = none → result op true true klen keyb dlen inb m = .absent .keyLength) ∧
  causeCode .keyLength = 2

/-- R235, R236: RESULT, check by check in the order of R236, and its values. -/
def Obligations.ResultByChecks : Prop :=
  ∀ (op : Op) (kp dp : Bool) (klen : Word) (keyb : Nat → Byte) (dlen : Word) (inb : Nat → Byte) (m : Nat),
    (kp = false ∨ dp = false → result op kp dp klen keyb dlen inb m = .absent .absentInput) ∧
    (kp = true → dp = true → select klen = none →
      result op kp dp klen keyb dlen inb m = .absent .keyLength) ∧
    (kp = true → dp = true → ∀ nk nr, select klen = some (nk, nr) →
      (op = .decrypt → (dlen = 0 ∨ dlen.toNat % 16 ≠ 0) →
        result op kp dp klen keyb dlen inb m = .absent .ctLength) ∧
      ((op = .decrypt → dlen ≠ 0 ∧ dlen.toNat % 16 = 0) → m < dlen.toNat →
        result op kp dp klen keyb dlen inb m = .absent .capacity) ∧
      (op = .encrypt → dlen.toNat ≤ m →
        result op kp dp klen keyb dlen inb m =
          .value (ecb (fun b => cipher b (keyExpansion (bytesOf keyb klen.toNat) nk nr) nr)
            (pad (bytesOf inb dlen.toNat)))) ∧
      (op = .decrypt → dlen ≠ 0 → dlen.toNat % 16 = 0 → dlen.toNat ≤ m →
        (∀ p, unpad (ecb (fun b => invCipher b (keyExpansion (bytesOf keyb klen.toNat) nk nr) nr)
            (bytesOf inb dlen.toNat)) = some p →
          result op kp dp klen keyb dlen inb m = .value p) ∧
        (unpad (ecb (fun b => invCipher b (keyExpansion (bytesOf keyb klen.toNat) nk nr) nr)
            (bytesOf inb dlen.toNat)) = none →
          result op kp dp klen keyb dlen inb m = .absent .badPadding)))

/-- R142: key words at and beyond KEY_LEN do not change the result. -/
def Obligations.KeyBytesBeyondLengthIgnored : Prop :=
  ∀ (op : Op) (s : State) (k : Vector Word 8), select s.keyLen ≠ none →
    (∀ j : Fin 8, 4 * j.val < s.keyLen.toNat → k[j] = s.key[j]) →
    commandResult op { s with key := k } = commandResult op s

/-- R254: commands with equal operands give equal results, whatever else the two states hold. -/
def Obligations.ResultIsFunctionOfOperands : Prop :=
  ∀ (op : Op) (s t : State), t.maxFrame = s.maxFrame → t.keyPresent = s.keyPresent →
    t.dataPresent = s.dataPresent → t.keyLen = s.keyLen → t.dataLen = s.dataLen →
    (∀ i, i < s.keyLen.toNat → keyByte t i = keyByte s i) →
    (∀ i, i < s.dataLen.toNat → inByte t i = inByte s i) →
    commandResult op t = commandResult op s

/-- R242: block `j` of the ciphertext is the cipher of block `j` of the padded frame and nothing
else, and likewise for decryption; R243: equal blocks give equal ciphertext blocks. -/
def Obligations.BlocksAreIndependent : Prop :=
  ∀ (w : List Quad) (nr : Nat) (p : List Byte) (j : Nat),
    (j < (pad p).length / 16 →
      blockAt (encryptFrame w nr p) (16 * j) = cipher (blockAt (pad p) (16 * j)) w nr) ∧
    (j < p.length / 16 →
      blockAt (decryptFrame w nr p) (16 * j) = invCipher (blockAt p (16 * j)) w nr) ∧
    (∀ k, j < (pad p).length / 16 → k < (pad p).length / 16 →
      blockAt (pad p) (16 * j) = blockAt (pad p) (16 * k) →
      blockAt (encryptFrame w nr p) (16 * j) = blockAt (encryptFrame w nr p) (16 * k))

/-- R171, R172: the padded length, and the full extra block of an aligned frame. -/
def Obligations.PaddedFrame : Prop :=
  ∀ p : List Byte,
    (pad p).length = 16 * (p.length / 16 + 1) ∧ p.length + 1 ≤ (pad p).length ∧ (pad p).length ≤ p.length + 16 ∧
    (p.length % 16 = 0 → pad p = p ++ List.replicate 16 0x10#8)

/-- R175: UNPAD of a padded frame gives the frame back. -/
def Obligations.UnpadOfPad : Prop :=
  ∀ p : List Byte, unpad (pad p) = some p

/-- R173: on a frame of whole blocks UNPAD succeeds exactly on a byte sequence followed by N bytes
of value N with N from 1 to 16, and gives that sequence. -/
def Obligations.UnpadAcceptsExactlyPadding : Prop :=
  ∀ q p : List Byte, q.length % 16 = 0 → q ≠ [] →
    (unpad q = some p ↔ ∃ n, 1 ≤ n ∧ n ≤ 16 ∧ q = p ++ List.replicate n (BitVec.ofNat 8 n))

/-! ## The cipher -/

/-- R190, R192: the shift-and-add product is the polynomial product modulo 0x11B. -/
def Obligations.GmulIsFieldProduct : Prop :=
  ∀ a b : Byte, gmul a b = polyMod (polyMul a b)

/-- R193: the inverse is the unique one, and the inverse of 00 is 00 by convention. -/
def Obligations.InverseIsUnique : Prop :=
  inv 0x00#8 = 0x00#8 ∧ ∀ b c : Byte, b ≠ 0 → (gmul b c = 1#8 ↔ c = inv b)

/-- R194: each table entry is the affine map of the inverse. -/
def Obligations.SboxIsAffineOfInverse : Prop :=
  sbox 0x00#8 = affine 0x00#8 ∧ ∀ a : Byte, a ≠ 0 → ∃ c : Byte, gmul a c = 1#8 ∧ sbox a = affine c

/-- R145: the words of the key schedule. -/
def Obligations.KeyScheduleRecurrence : Prop :=
  ∀ (key : List Byte) (nk nr : Nat), (nk, nr) ∈ [(4, 10), (6, 12), (8, 14)] →
    (keyExpansion key nk nr).length = 4 * (nr + 1) ∧
    (∀ i, i < nk → (keyExpansion key nk nr).getD i Quad.zero =
      ⟨key.getD (4 * i) 0, key.getD (4 * i + 1) 0, key.getD (4 * i + 2) 0, key.getD (4 * i + 3) 0⟩) ∧
    (∀ i, nk ≤ i → i < 4 * (nr + 1) →
      (keyExpansion key nk nr).getD i Quad.zero =
        xorQuad ((keyExpansion key nk nr).getD (i - nk) Quad.zero)
          (if i % nk = 0 then
            xorQuad (subWord (rotWord ((keyExpansion key nk nr).getD (i - 1) Quad.zero))) (rcon (i / nk))
          else if 6 < nk ∧ i % nk = 4 then subWord ((keyExpansion key nk nr).getD (i - 1) Quad.zero)
          else (keyExpansion key nk nr).getD (i - 1) Quad.zero))

/-- R206: CIPHER and INV_CIPHER are each other's inverse, for every schedule. -/
def Obligations.CipherInverse : Prop :=
  ∀ (b : Block) (w : List Quad) (nr : Nat),
    invCipher (cipher b w nr) w nr = b ∧ cipher (invCipher b w nr) w nr = b

/-- R244: the round trip of a whole frame through the machine. An ENCRYPT that gives a Value, whose
bytes a DECRYPT under the same key then gets as its frame, gives the plaintext frame back; the
ciphertext fits IN_BUF exactly when the frame is shorter than MAX_FRAME_BYTES; that of a frame of
MAX_FRAME_BYTES bytes cannot be decrypted by this block. -/
def Obligations.FrameRoundTrip : Prop :=
  ∀ s u : State, ParamsLegal s → s.phase = .run .encrypt → (engineStep s).value = true →
    ((engineStep s).outLen.toNat ≤ s.maxFrame ↔ s.dataLen.toNat < s.maxFrame) ∧
    (s.dataLen.toNat = s.maxFrame → (engineStep s).outLen.toNat = s.maxFrame + 16 ∧
      (u.phase = .run .decrypt → u.maxFrame = s.maxFrame → u.dataLen = (engineStep s).outLen →
        (engineStep u).value = false)) ∧
    (s.dataLen.toNat < s.maxFrame →
      u.phase = .run .decrypt → u.maxFrame = s.maxFrame → u.keyPresent = true → u.dataPresent = true →
      u.keyLen = s.keyLen → u.key = s.key → u.dataLen = (engineStep s).outLen →
      (∀ i, i < (engineStep s).outLen.toNat → inByte u i = outByte (engineStep s) i) →
      (engineStep u).done = true ∧ (engineStep u).value = true ∧ (engineStep u).cause = 0 ∧
      (engineStep u).outLen = s.dataLen ∧
      ∀ i, i < s.dataLen.toNat → outByte (engineStep u) i = inByte s i)

/-! ## Completion -/

/-- R250, R57, R310: the engine's turn is enabled exactly while PHASE = RUN, and then publishes RESULT,
ends the BUSY window, sets IRQ_STATUS.DONE and zeroizes. -/
def Obligations.CompletionRecord : Prop :=
  ∀ s : State,
    (s.phase = .idle → engineStep s = s) ∧
    (∀ op, s.phase = .run op →
      (∀ B, commandResult op s = .value B →
        (∀ i, outByte (engineStep s) i = if i < B.length then B.getD i 0 else 0x00#8) ∧
        (engineStep s).outLen = BitVec.ofNat 32 B.length ∧
        (engineStep s).value = true ∧ (engineStep s).cause = 0) ∧
      (∀ c, commandResult op s = .absent c →
        (∀ i, outByte (engineStep s) i = 0x00#8) ∧ (engineStep s).outLen = 0 ∧
        (engineStep s).value = false ∧
        (engineStep s).cause = (match c with
          | .absentInput => 1#4 | .keyLength => 2#4 | .ctLength => 3#4 | .badPadding => 4#4 | .capacity => 5#4)) ∧
      (engineStep s).done = true ∧ (engineStep s).busy = false ∧ (engineStep s).irqDone = true ∧
      (engineStep s).phase = .idle ∧ Zeroized (engineStep s))

/-- The frame of completion (R46, R48, R250): CTRL, ERR, DATA_LEN, IN_BUF and the last response are
unchanged; the interrupt output is then IRQ_EN (R50). -/
def Obligations.CompletionFrame : Prop :=
  ∀ s : State,
    (engineStep s).maxFrame = s.maxFrame ∧ (engineStep s).irqEn = s.irqEn ∧
    (engineStep s).illegalCmd = s.illegalCmd ∧ (engineStep s).cmdWhileBusy = s.cmdWhileBusy ∧
    (engineStep s).writeWhileBusy = s.writeWhileBusy ∧ (engineStep s).dataLen = s.dataLen ∧
    (∀ i, inByte (engineStep s) i = inByte s i) ∧ (engineStep s).response = s.response ∧
    (engineStep s).resets = s.resets ∧ (engineStep s).draws = s.draws ∧
    (engineStep s).schedule = s.schedule ∧
    (s.phase ≠ .idle → irq (engineStep s) = s.irqEn)

/-- R233: ENCRYPT with present operands, a valid key length and a frame that fits is accepted, and
its completion gives the Value of the enciphered padded frame. -/
def Obligations.EncryptCompletes : Prop :=
  ∀ (s : State) (nk nr : Nat), ParamsLegal s → s.busy = false → s.keyPresent = true → s.dataPresent = true →
    select s.keyLen = some (nk, nr) → s.dataLen.toNat ≤ s.maxFrame →
    ∃ t, exec .encrypt s = .next t ∧ t.busy = true ∧ t.phase = .run .encrypt ∧
      (engineStep t).done = true ∧ (engineStep t).busy = false ∧ (engineStep t).value = true ∧
      (engineStep t).cause = 0 ∧ (engineStep t).irqDone = true ∧
      (engineStep t).outLen.toNat = 16 * (s.dataLen.toNat / 16 + 1) ∧
      (∀ i, outByte (engineStep t) i =
        (encryptFrame (keyExpansion (keyOperand s) nk nr) nr (frameOperand s)).getD i 0)

/-- R234: DECRYPT with present operands, a valid key length and a frame of whole blocks that fits is
accepted, and its completion gives the unpadded deciphered frame or BAD_PADDING. -/
def Obligations.DecryptCompletes : Prop :=
  ∀ (s : State) (nk nr : Nat), ParamsLegal s → s.busy = false → s.keyPresent = true → s.dataPresent = true →
    select s.keyLen = some (nk, nr) → s.dataLen ≠ 0 → s.dataLen.toNat % 16 = 0 →
    s.dataLen.toNat ≤ s.maxFrame →
    ∃ t, exec .decrypt s = .next t ∧ t.busy = true ∧ t.phase = .run .decrypt ∧
      (engineStep t).done = true ∧ (engineStep t).busy = false ∧ (engineStep t).irqDone = true ∧
      (∀ p, unpad (decryptFrame (keyExpansion (keyOperand s) nk nr) nr (frameOperand s)) = some p →
        (engineStep t).value = true ∧ (engineStep t).cause = 0 ∧
        (engineStep t).outLen.toNat = p.length ∧ ∀ i, outByte (engineStep t) i = p.getD i 0) ∧
      (unpad (decryptFrame (keyExpansion (keyOperand s) nk nr) nr (frameOperand s)) = none →
        (engineStep t).value = false ∧ (engineStep t).cause = 4 ∧ (engineStep t).outLen = 0 ∧
        ∀ i, outByte (engineStep t) i = 0x00#8)

/-- R252: the length of a Value result. -/
def Obligations.ResultLength : Prop :=
  ∀ s : State, ParamsLegal s → (engineStep s).value = true →
    (s.phase = .run .encrypt →
      (engineStep s).outLen.toNat = 16 * (s.dataLen.toNat / 16 + 1) ∧
      16 ≤ (engineStep s).outLen.toNat ∧ (engineStep s).outLen.toNat ≤ s.maxFrame + 16) ∧
    (s.phase = .run .decrypt →
      ∃ n, 1 ≤ n ∧ n ≤ 16 ∧ n ≤ s.dataLen.toNat ∧
        (engineStep s).outLen.toNat = s.dataLen.toNat - n ∧ (engineStep s).outLen.toNat ≤ s.maxFrame - 1)

/-- R366: after a completion, a second command without new operands completes Absent with CAUSE 1
and not under the old key. -/
def Obligations.KeyMustBeRewritten : Prop :=
  ∀ (s : State) (op : Op), s.phase = .run op →
    Zeroized (engineStep s) ∧
    ∃ t u, exec .encrypt (engineStep s) = .next t ∧ exec .decrypt (engineStep s) = .next u ∧
      (engineStep t).done = true ∧ (engineStep t).value = false ∧ (engineStep t).cause = 1 ∧
      (engineStep u).done = true ∧ (engineStep u).value = false ∧ (engineStep u).cause = 1

/-- R362: while busy, OUT_LEN reads 0, OUT_BUF reads 0x00 and STATUS reads BUSY alone. -/
def Obligations.ResultsHiddenWhileBusy : Prop :=
  ∀ s : State, Inv s → s.busy = true →
    exec (.rd32 0x00028#18) s = .next (s.answering (.data .four 0#32)) ∧
    exec (.rd32 0x00010#18) s = .next (s.answering (.data .four 1#32)) ∧
    (∀ (n : Width) (i : Nat), i + n.bytes ≤ s.maxFrame + 16 → (0x20000 + i) % n.bytes = 0 →
      exec (accessInstr false n (BitVec.ofNat 18 (0x20000 + i)) 0) s =
        .next (s.answering (.data n 0#32)))

/-! ## Bus transactions -/

/-- R91: a read changes nothing but the response it gives, and the same read again gives the same
response. -/
def Obligations.ReadsChangeNothing : Prop :=
  ∀ (n : Width) (off : Offset) (s : State),
    ∃ r, exec (accessInstr false n off 0) s = .next (s.answering r) ∧
      exec (accessInstr false n off 0) (s.answering r) = .next (s.answering r)

/-- R282, registers: what each register reads, with the fields of each at the places of
spec/10_state.md. -/
def Obligations.RegisterReads : Prop :=
  ∀ s : State,
    exec (.rd32 0x00000#18) s = .next (s.answering (.data .four 0x41455331#32)) ∧
    exec (.rd32 0x00004#18) s = .next (s.answering (.data .four (0x001F0000#32 ||| BitVec.ofNat 32 s.maxFrame))) ∧
    exec (.rd32 0x00008#18) s = .next (s.answering (.data .four ((BitVec.ofBool s.irqEn).setWidth 32))) ∧
    exec (.rd32 0x0000C#18) s = .next (s.answering (.data .four 0#32)) ∧
    exec (.rd32 0x00010#18) s = .next (s.answering (.data .four
      ((s.cause ++ 0#1 ++ BitVec.ofBool s.value ++ BitVec.ofBool s.done ++ BitVec.ofBool s.busy).setWidth 32))) ∧
    exec (.rd32 0x00014#18) s = .next (s.answering (.data .four
      ((BitVec.ofBool s.writeWhileBusy ++ BitVec.ofBool s.cmdWhileBusy ++ BitVec.ofBool s.illegalCmd).setWidth 32))) ∧
    exec (.rd32 0x00018#18) s = .next (s.answering (.data .four ((BitVec.ofBool s.irqDone).setWidth 32))) ∧
    exec (.rd32 0x0001C#18) s = .next (s.answering (.data .four
      ((BitVec.ofBool s.dataPresent ++ BitVec.ofBool s.keyPresent).setWidth 32))) ∧
    exec (.rd32 0x00020#18) s = .next (s.answering (.data .four s.keyLen)) ∧
    exec (.rd32 0x00024#18) s = .next (s.answering (.data .four s.dataLen)) ∧
    exec (.rd32 0x00028#18) s = .next (s.answering (.data .four s.outLen)) ∧
    (∀ j : Fin 8, exec (.rd32 (BitVec.ofNat 18 (0x40 + 4 * j.val))) s =
      .next (s.answering (.data .four 0#32)))

/-- R282, R284, R285, R85: what each width reads from IN_BUF and OUT_BUF, little-endian. -/
def Obligations.BufferReads : Prop :=
  ∀ (s : State) (i : Nat), i < 0x10000 →
    (i + 1 ≤ s.maxFrame → exec (.rd8 (BitVec.ofNat 18 (0x10000 + i))) s =
      .next (s.answering (.data .one ((inByte s i).setWidth 32)))) ∧
    (i % 2 = 0 → i + 2 ≤ s.maxFrame → exec (.rd16 (BitVec.ofNat 18 (0x10000 + i))) s =
      .next (s.answering (.data .two ((inByte s (i + 1) ++ inByte s i).setWidth 32)))) ∧
    (i % 4 = 0 → i + 4 ≤ s.maxFrame → exec (.rd32 (BitVec.ofNat 18 (0x10000 + i))) s =
      .next (s.answering (.data .four
        (inByte s (i + 3) ++ inByte s (i + 2) ++ inByte s (i + 1) ++ inByte s i)))) ∧
    (i + 1 ≤ s.maxFrame + 16 → exec (.rd8 (BitVec.ofNat 18 (0x20000 + i))) s =
      .next (s.answering (.data .one ((outVis s i).setWidth 32)))) ∧
    (i % 2 = 0 → i + 2 ≤ s.maxFrame + 16 → exec (.rd16 (BitVec.ofNat 18 (0x20000 + i))) s =
      .next (s.answering (.data .two ((outVis s (i + 1) ++ outVis s i).setWidth 32)))) ∧
    (i % 4 = 0 → i + 4 ≤ s.maxFrame + 16 → exec (.rd32 (BitVec.ofNat 18 (0x20000 + i))) s =
      .next (s.answering (.data .four
        (outVis s (i + 3) ++ outVis s (i + 2) ++ outVis s (i + 1) ++ outVis s i)))) ∧
    outVis s i = (if s.done = true ∧ s.value = true ∧ i < s.outLen.toNat then outByte s i else 0x00#8)

/-- R280, R281: exactly the transactions that are not legal end with BUS_ERROR, and those change no
state and return no data; legality does not depend on BUSY. -/
def Obligations.BusErrorExactlyWhenIllegal : Prop :=
  ∀ (write : Bool) (n : Width) (off : Offset) (data : Word) (s : State),
    (¬ LegalAccess s.maxFrame off.toNat n.bytes →
      exec (accessInstr write n off data) s = .next (s.answering .busError)) ∧
    (LegalAccess s.maxFrame off.toNat n.bytes →
      ∃ t, exec (accessInstr write n off data) s = .next t ∧
        (write = true → t.response = some .ok) ∧ (write = false → ∃ v, t.response = some (.data n v)))

/-- R34, R50, R288: a write of CTRL stores bit 0 and the interrupt output follows at once; ERR and
IRQ_STATUS are write-1-to-clear; all three busy or not. -/
def Obligations.FlagRegisterWrites : Prop :=
  ∀ (s : State) (v : Word),
    (∃ t, exec (.wr32 0x00008#18 v) s = .next t ∧
      t = { s with irqEn := v.getLsbD 0, response := some .ok } ∧ irq t = (v.getLsbD 0 && s.irqDone)) ∧
    exec (.wr32 0x00014#18 v) s = .next { s with
      illegalCmd := s.illegalCmd && !v.getLsbD 0, cmdWhileBusy := s.cmdWhileBusy && !v.getLsbD 1,
      writeWhileBusy := s.writeWhileBusy && !v.getLsbD 2, response := some .ok } ∧
    exec (.wr32 0x00018#18 v) s = .next { s with irqDone := s.irqDone && !v.getLsbD 0, response := some .ok }

/-- R289: writes to ID, CAPS, STATUS, OUT_LEN and OUT_BUF are accepted and change nothing. -/
def Obligations.ReadOnlyWritesIgnored : Prop :=
  ∀ s : State,
    (∀ off ∈ [0x00000#18, 0x00004#18, 0x00010#18, 0x00028#18], ∀ v : Word,
      exec (.wr32 off v) s = .next (s.answering .ok)) ∧
    (∀ (n : Width) (i : Nat) (v : Word), i < 0x10000 → (0x20000 + i) % n.bytes = 0 → i + n.bytes ≤ s.maxFrame + 16 →
      exec (accessInstr true n (BitVec.ofNat 18 (0x20000 + i)) v) s = .next (s.answering .ok))

/-- R286, R287: a legal write to input-side state while busy is dropped and sets
ERR.WRITE_WHILE_BUSY; the response is OK. -/
def Obligations.InputWritesWhileBusyDropped : Prop :=
  ∀ s : State, s.busy = true →
    (∀ off ∈ [0x0001C#18, 0x00020#18, 0x00024#18], ∀ v : Word,
      exec (.wr32 off v) s = .next { s with writeWhileBusy := true, response := some .ok }) ∧
    (∀ (j : Fin 8) (v : Word), exec (.wr32 (BitVec.ofNat 18 (0x40 + 4 * j.val)) v) s =
      .next { s with writeWhileBusy := true, response := some .ok }) ∧
    (∀ (n : Width) (i : Nat) (v : Word), i < 0x10000 → (0x10000 + i) % n.bytes = 0 → i + n.bytes ≤ s.maxFrame →
      exec (accessInstr true n (BitVec.ofNat 18 (0x10000 + i)) v) s =
        .next { s with writeWhileBusy := true, response := some .ok })

/-- R283, R43 to R46: writes of the input-side registers while idle, each with everything it leaves
unchanged. -/
def Obligations.InputRegisterWrites : Prop :=
  ∀ (s : State) (v : Word), s.busy = false →
    exec (.wr32 0x0001C#18 v) s = .next { s with
      keyPresent := v.getLsbD 0, dataPresent := v.getLsbD 1, response := some .ok } ∧
    exec (.wr32 0x00020#18 v) s = .next { s with keyLen := v, response := some .ok } ∧
    exec (.wr32 0x00024#18 v) s = .next { s with dataLen := v, response := some .ok } ∧
    (∀ j : Fin 8, ∃ t, exec (.wr32 (BitVec.ofNat 18 (0x40 + 4 * j.val)) v) s = .next t ∧
      t = { s with key := t.key, response := some .ok } ∧
      ∀ i, i < 32 → keyByte t i = if i / 4 = j.val then v.extractLsb' (8 * (i % 4)) 8 else keyByte s i)

/-- R283, R48, R85: writes of each width into IN_BUF while idle store the low bytes little-endian
and change no other byte and no other state. -/
def Obligations.BufferWrites : Prop :=
  ∀ (s : State) (i : Nat), Inv s → s.busy = false → i < 0x10000 →
    (∀ d : BitVec 8, i + 1 ≤ s.maxFrame →
      ∃ t, exec (.wr8 (BitVec.ofNat 18 (0x10000 + i)) d) s = .next t ∧
        t = { s with inBuf := t.inBuf, response := some .ok } ∧
        ∀ a, inByte t a = if a = i then d else inByte s a) ∧
    (∀ d : BitVec 16, i % 2 = 0 → i + 2 ≤ s.maxFrame →
      ∃ t, exec (.wr16 (BitVec.ofNat 18 (0x10000 + i)) d) s = .next t ∧
        t = { s with inBuf := t.inBuf, response := some .ok } ∧
        ∀ a, inByte t a = if i ≤ a ∧ a < i + 2 then d.extractLsb' (8 * (a - i)) 8 else inByte s a) ∧
    (∀ d : BitVec 32, i % 4 = 0 → i + 4 ≤ s.maxFrame →
      ∃ t, exec (.wr32 (BitVec.ofNat 18 (0x10000 + i)) d) s = .next t ∧
        t = { s with inBuf := t.inBuf, response := some .ok } ∧
        ∀ a, inByte t a = if i ≤ a ∧ a < i + 4 then d.extractLsb' (8 * (a - i)) 8 else inByte s a)

/-- R86: a 4-byte write to IN_BUF is seen exactly by the four 1-byte reads and the two 2-byte reads
of its bytes. -/
def Obligations.MixedWidthAccess : Prop :=
  ∀ (s : State) (i : Nat) (d : Word), Inv s → s.busy = false → i < 0x10000 → i % 4 = 0 → i + 4 ≤ s.maxFrame →
    ∃ t, exec (.wr32 (BitVec.ofNat 18 (0x10000 + i)) d) s = .next t ∧
      (∀ k, k < 4 → exec (.rd8 (BitVec.ofNat 18 (0x10000 + i + k))) t =
        .next (t.answering (.data .one ((d.extractLsb' (8 * k) 8).setWidth 32)))) ∧
      (∀ k, k < 2 → exec (.rd16 (BitVec.ofNat 18 (0x10000 + i + 2 * k))) t =
        .next (t.answering (.data .two ((d.extractLsb' (16 * k) 16).setWidth 32)))) ∧
      exec (.rd32 (BitVec.ofNat 18 (0x10000 + i))) t = .next (t.answering (.data .four d))

/-! ## The whole machine -/

/-- R351: the state right after reset, in the reference configuration (R8). Hidden datapath, PHASE
and OPR included; IN_BUF holds the free bytes of IN_BUF_RESET. The values of the model's own fields
(`response`, `schedule`, counters) are no rule of the spec and are not claimed here. -/
def Obligations.ResetValues : Prop :=
  readReg State.reset .id = 0x41455331#32 ∧ readReg State.reset .caps = 0x001F1000#32 ∧
  State.reset.irqEn = false ∧ State.reset.busy = false ∧ State.reset.done = false ∧
  State.reset.value = false ∧ State.reset.cause = 0 ∧ State.reset.illegalCmd = false ∧
  State.reset.cmdWhileBusy = false ∧ State.reset.writeWhileBusy = false ∧ State.reset.irqDone = false ∧
  State.reset.keyPresent = false ∧ State.reset.dataPresent = false ∧ State.reset.keyLen = 0 ∧
  State.reset.dataLen = 0 ∧ State.reset.outLen = 0 ∧ (∀ j : Fin 8, State.reset.key[j] = 0#32) ∧
  (∀ i, inByte State.reset i = Config.inBufReset State.reset.resets i) ∧
  (∀ i, outByte State.reset i = 0x00#8 ∧ outVis State.reset i = 0x00#8) ∧ irq State.reset = false ∧
  State.reset.phase = .idle ∧ State.reset.datapath = Datapath.zero

/-- R350, R352: the reset input, whatever the block is doing, gives every register its reset value
and abandons a running command. MAX_FRAME_BYTES and the outside's further events stay (log 17). -/
def Obligations.ResetAbandonsCommand : Prop :=
  ∀ (s : State) (rest : List Event), s.schedule = .reset :: rest →
    ∃ t, step s = .next t ∧
      t = { State.reset with
        maxFrame := s.maxFrame, resets := s.resets + 1, draws := s.draws, schedule := rest }

/-- The invariant of the block (R8, R36, R47 to R49, R52, R57) holds after reset. -/
def Obligations.ResetMeetsInvariant : Prop := Inv State.reset

/-- The invariant of the block is kept by every step, from every state that meets it. -/
def Obligations.StepKeepsInvariant : Prop :=
  ∀ s t : State, Inv s → step s = .next t → Inv t

/-- R361: while a command runs, no step that leaves it running changes an operand, the operation or
the result it will give. -/
def Obligations.InputsFrozenWhileBusy : Prop :=
  ∀ s t : State, Inv s → s.busy = true → step s = .next t → t.busy = true →
    SameInputs s t ∧ t.phase = s.phase ∧ ∀ op, commandResult op t = commandResult op s

/-- R37, R38, R42: DONE and IRQ_STATUS.DONE rise only with the completion of the command that ran;
BUSY rises only into a running command whose result registers are cleared and whose operands are
those that stood before; BUSY falls only with the completion or a reset. -/
def Obligations.OnlyCompletionEndsCommand : Prop :=
  ∀ s t : State, Inv s → step s = .next t →
    ((s.done = false ∧ t.done = true) ∨ (s.irqDone = false ∧ t.irqDone = true) →
      s.busy = true ∧ t.busy = false ∧ t.done = true ∧ t.irqDone = true ∧
      ∃ op, s.phase = .run op ∧ SameOutput (engineStep s) t) ∧
    (s.busy = false → t.busy = true →
      ∃ op, t.phase = .run op ∧ t.done = false ∧ t.outLen = 0 ∧ SameInputs s t) ∧
    (s.busy = true → t.busy = false →
      (t.done = true ∧ t.irqDone = true) ∨ ∃ rest, s.schedule = .reset :: rest)

/-- R56: no step's visible outcome depends on the hidden datapath. Two states that differ only there
step to states that differ only there. -/
def Obligations.DatapathUnobservable : Prop :=
  ∀ s t s' : State, SameButDatapath s t → step s = .next s' →
    ∃ t', step t = .next t' ∧ SameButDatapath s' t'

/-- R43, R93: no instruction's response depends on the key registers. -/
def Obligations.KeyCannotBeRead : Prop :=
  ∀ (i : Instr) (s t : State) (k : Vector Word 8), exec i s = .next t →
    ∃ u, exec i { s with key := k } = .next u ∧ u.response = t.response

/-- R250, R361, R371: an accepted command completes. Whatever instructions and bus accesses come
before the engine's turn, after them and that turn the block is idle with the result of the operands
as they stood at the start. That a quiet outside gives the engine its turn is log 2. -/
def Obligations.AcceptedCommandCompletes : Prop :=
  ∀ (s : State) (op : Op) (evs rest : List Event), Inv s → s.phase = .run op →
    (∀ e ∈ evs, HostEvent e) →
    (s.schedule = evs ++ .engine :: rest ∨ (s.schedule = evs ∧ rest = [])) →
    ∃ t, core.run (evs.length + 1) s = .next t ∧ t.phase = .idle ∧ t.busy = false ∧ t.done = true ∧
      t.irqDone = true ∧ SameOutput (engineStep s) t ∧ t.schedule = rest

/-- R118, R88, R87, R356: the pseudo-operations LDKEY, LDBUF and SETP have an expansion (up to 32 key
bytes and a frame that fits IN_BUF) and, performed on an idle block one after another, leave exactly the given bytes as the operands of the next command. -/
def Obligations.LoadedOperands : Prop :=
  ∀ (s : State) (key frame : List Byte) (kp dp : Bool), Inv s → s.busy = false →
    key.length ≤ 32 → frame.length ≤ s.maxFrame →
    ∃ loadKey loadFrame t, expandLdkey key = some loadKey ∧ expandLdbuf frame = some loadFrame ∧
      performAll (loadKey ++ loadFrame ++ expandSetp kp dp) s = .next t ∧
      keyOperand t = key ∧ frameOperand t = frame ∧ t.keyLen.toNat = key.length ∧
      t.dataLen.toNat = frame.length ∧ t.keyPresent = kp ∧ t.dataPresent = dp ∧ t.busy = false ∧
      SameOutput s t ∧ t.irqDone = s.irqDone
end

