-- ==== Sys2Proof/Laws/Aes.lean ====
section
/-! SUPPORT. The laws of the cipher's parts: multiplication in GF(2^8) is linear over exclusive-or in
its second operand, each round transformation has its inverse (R201 to R203), and adding a round key
twice changes nothing. -/

namespace Sys2Proof.Machine

/-! ## Linear byte functions -/

/-- A byte function that respects exclusive-or. -/
def ByteLinear (f : Byte → Byte) : Prop := ∀ x y, f (x ^^^ y) = f x ^^^ f y

theorem ByteLinear.zero {f : Byte → Byte} (hf : ByteLinear f) : f 0 = 0 := by
  have h := hf 0 0
  have h2 : (0 : Byte) ^^^ 0 = 0 := by decide
  rw [h2] at h
  calc f 0 = f 0 ^^^ f 0 ^^^ f 0 := by simp
    _ = 0 := by rw [← h]; simp

theorem ByteLinear.xor {f g : Byte → Byte} (hf : ByteLinear f) (hg : ByteLinear g) :
    ByteLinear fun x => f x ^^^ g x := fun x y => by
  simp only [hf x y, hg x y]; ac_rfl

theorem ByteLinear.comp {f g : Byte → Byte} (hf : ByteLinear f) (hg : ByteLinear g) :
    ByteLinear fun x => f (g x) := fun x y => by simp only [hg x y, hf _ _]

theorem ByteLinear.id : ByteLinear fun x => x := fun _ _ => rfl

/-- A byte is the sum of its eight bits. -/
theorem byte_eq_bits (a : Byte) : a = (a &&& 0x01#8) ^^^ (a &&& 0x02#8) ^^^ (a &&& 0x04#8) ^^^ (a &&& 0x08#8)
    ^^^ (a &&& 0x10#8) ^^^ (a &&& 0x20#8) ^^^ (a &&& 0x40#8) ^^^ (a &&& 0x80#8) := by
  revert a; decide +kernel

theorem byte_and_bit (a : Byte) : ∀ k < 8, a &&& (1#8 <<< k) = 0 ∨ a &&& (1#8 <<< k) = 1#8 <<< k := by
  revert a; decide +kernel

/-- Two linear byte functions that agree on the eight single bits are equal. -/
theorem ByteLinear.ext {f g : Byte → Byte} (hf : ByteLinear f) (hg : ByteLinear g)
    (h : ∀ k < 8, f (1#8 <<< k) = g (1#8 <<< k)) (a : Byte) : f a = g a := by
  have bit : ∀ k < 8, f (a &&& (1#8 <<< k)) = g (a &&& (1#8 <<< k)) := fun k hk => by
    rcases byte_and_bit a k hk with e | e
    · rw [e, hf.zero, hg.zero]
    · rw [e, h k hk]
  have b0 := bit 0 (by decide)
  have b1 := bit 1 (by decide)
  have b2 := bit 2 (by decide)
  have b3 := bit 3 (by decide)
  have b4 := bit 4 (by decide)
  have b5 := bit 5 (by decide)
  have b6 := bit 6 (by decide)
  have b7 := bit 7 (by decide)
  simp only [show (1#8 <<< 0) = 0x01#8 from rfl, show (1#8 <<< 1) = 0x02#8 from rfl,
    show (1#8 <<< 2) = 0x04#8 from rfl, show (1#8 <<< 3) = 0x08#8 from rfl,
    show (1#8 <<< 4) = 0x10#8 from rfl, show (1#8 <<< 5) = 0x20#8 from rfl,
    show (1#8 <<< 6) = 0x40#8 from rfl, show (1#8 <<< 7) = 0x80#8 from rfl] at b0 b1 b2 b3 b4 b5 b6 b7
  rw [byte_eq_bits a]
  simp only [hf _ _, hg _ _]
  rw [b0, b1, b2, b3, b4, b5, b6, b7]

/-! ## Multiplication -/

theorem gmulLoop_xor (x y a : Byte) (ks : List Nat) (p q : Byte) :
    (gmulLoop (x ^^^ y) ks (p ^^^ q, a)).1 = (gmulLoop x ks (p, a)).1 ^^^ (gmulLoop y ks (q, a)).1 := by
  induction ks generalizing p q a with
  | nil => rfl
  | cons k ks ih =>
    simp only [gmulLoop, BitVec.getLsbD_xor]
    cases hx : x.getLsbD k <;> cases hy : y.getLsbD k <;> simp only [Bool.xor_self, Bool.bne_true,
      Bool.bne_false, Bool.not_false, if_true, if_false, Bool.false_eq_true] <;> rw [← ih]
    · exact congrArg (fun t => (gmulLoop (x ^^^ y) ks (t, xtime a)).1) (by ac_rfl)
    · exact congrArg (fun t => (gmulLoop (x ^^^ y) ks (t, xtime a)).1) (by ac_rfl)
    · exact congrArg (fun t => (gmulLoop (x ^^^ y) ks (t, xtime a)).1) (by
        have : p ^^^ a ^^^ (q ^^^ a) = p ^^^ q ^^^ (a ^^^ a) := by ac_rfl
        rw [this]; simp)

/-- Multiplication by a fixed element is linear in the other operand. -/
theorem gmul_linear (a : Byte) : ByteLinear (gmul a) := fun x y => by
  have h := gmulLoop_xor x y a [0, 1, 2, 3, 4, 5, 6, 7] 0 0
  rwa [show (0 : Byte) ^^^ 0 = 0 from rfl] at h

theorem gmul_xor (a x y : Byte) : gmul a (x ^^^ y) = gmul a x ^^^ gmul a y := gmul_linear a x y

/-! ## Column mixing and its inverse -/

/-- One product of the two mixing matrices: a combination `A•(a•x) ^ B•(b•x) ^ C•(c•x) ^ D•(d•x)`
of the byte `x` that equals a linear `g` on the eight bits equals it everywhere. -/
theorem gmul_combination (A a B b C c D d : Byte) {g : Byte → Byte} (hg : ByteLinear g)
    (h : ∀ k < 8, gmul A (gmul a (1#8 <<< k)) ^^^ gmul B (gmul b (1#8 <<< k)) ^^^
      gmul C (gmul c (1#8 <<< k)) ^^^ gmul D (gmul d (1#8 <<< k)) = g (1#8 <<< k)) (x : Byte) :
    gmul A (gmul a x) ^^^ gmul B (gmul b x) ^^^ gmul C (gmul c x) ^^^ gmul D (gmul d x) = g x :=
  ByteLinear.ext (f := fun x => gmul A (gmul a x) ^^^ gmul B (gmul b x) ^^^ gmul C (gmul c x) ^^^
      gmul D (gmul d x))
    ((((gmul_linear A).comp (gmul_linear a)).xor ((gmul_linear B).comp (gmul_linear b))).xor
      ((gmul_linear C).comp (gmul_linear c)) |>.xor ((gmul_linear D).comp (gmul_linear d))) hg h x

theorem gmul_one (x : Byte) : gmul 1#8 x = x :=
  ByteLinear.ext (gmul_linear 1#8) ByteLinear.id (by decide +kernel) x

theorem byteLinear_const_zero : ByteLinear fun _ => 0 := fun _ _ => by simp

/-- A row of coefficients applied to a column. -/
def rowMul (k0 k1 k2 k3 : Byte) (q : Quad) : Byte :=
  gmul k0 q.b0 ^^^ gmul k1 q.b1 ^^^ gmul k2 q.b2 ^^^ gmul k3 q.b3

theorem mixColumn_rows (q : Quad) : mixColumn q =
    ⟨rowMul 2 3 1 1 q, rowMul 1 2 3 1 q, rowMul 1 1 2 3 q, rowMul 3 1 1 2 q⟩ := by
  simp [mixColumn, rowMul, gmul_one]

theorem invMixColumn_rows (q : Quad) : invMixColumn q =
    ⟨rowMul 0x0e 0x0b 0x0d 0x09 q, rowMul 0x09 0x0e 0x0b 0x0d q,
     rowMul 0x0d 0x09 0x0e 0x0b q, rowMul 0x0b 0x0d 0x09 0x0e q⟩ := rfl

/-- A row applied to the four rows of a column is the sum of its effects on the four bytes. -/
theorem rowMul_rowMul (k0 k1 k2 k3 a0 a1 a2 a3 b0 b1 b2 b3 c0 c1 c2 c3 d0 d1 d2 d3 : Byte) (q : Quad) :
    rowMul k0 k1 k2 k3
      ⟨rowMul a0 a1 a2 a3 q, rowMul b0 b1 b2 b3 q, rowMul c0 c1 c2 c3 q, rowMul d0 d1 d2 d3 q⟩ =
    (gmul k0 (gmul a0 q.b0) ^^^ gmul k1 (gmul b0 q.b0) ^^^ gmul k2 (gmul c0 q.b0) ^^^ gmul k3 (gmul d0 q.b0)) ^^^
    (gmul k0 (gmul a1 q.b1) ^^^ gmul k1 (gmul b1 q.b1) ^^^ gmul k2 (gmul c1 q.b1) ^^^ gmul k3 (gmul d1 q.b1)) ^^^
    (gmul k0 (gmul a2 q.b2) ^^^ gmul k1 (gmul b2 q.b2) ^^^ gmul k2 (gmul c2 q.b2) ^^^ gmul k3 (gmul d2 q.b2)) ^^^
    (gmul k0 (gmul a3 q.b3) ^^^ gmul k1 (gmul b3 q.b3) ^^^ gmul k2 (gmul c3 q.b3) ^^^ gmul k3 (gmul d3 q.b3)) := by
  simp only [rowMul, gmul_xor]; ac_rfl

theorem invMixColumn_mixColumn (q : Quad) : invMixColumn (mixColumn q) = q := by
  rw [mixColumn_rows, invMixColumn_rows]
  simp only [rowMul_rowMul]
  rw [gmul_combination 0x0e 2 0x0b 1 0x0d 1 0x09 3 ByteLinear.id (by decide +kernel),
    gmul_combination 0x0e 3 0x0b 2 0x0d 1 0x09 1 byteLinear_const_zero (by decide +kernel),
    gmul_combination 0x0e 1 0x0b 3 0x0d 2 0x09 1 byteLinear_const_zero (by decide +kernel),
    gmul_combination 0x0e 1 0x0b 1 0x0d 3 0x09 2 byteLinear_const_zero (by decide +kernel),
    gmul_combination 0x09 2 0x0e 1 0x0b 1 0x0d 3 byteLinear_const_zero (by decide +kernel),
    gmul_combination 0x09 3 0x0e 2 0x0b 1 0x0d 1 ByteLinear.id (by decide +kernel),
    gmul_combination 0x09 1 0x0e 3 0x0b 2 0x0d 1 byteLinear_const_zero (by decide +kernel),
    gmul_combination 0x09 1 0x0e 1 0x0b 3 0x0d 2 byteLinear_const_zero (by decide +kernel),
    gmul_combination 0x0d 2 0x09 1 0x0e 1 0x0b 3 byteLinear_const_zero (by decide +kernel),
    gmul_combination 0x0d 3 0x09 2 0x0e 1 0x0b 1 byteLinear_const_zero (by decide +kernel),
    gmul_combination 0x0d 1 0x09 3 0x0e 2 0x0b 1 ByteLinear.id (by decide +kernel),
    gmul_combination 0x0d 1 0x09 1 0x0e 3 0x0b 2 byteLinear_const_zero (by decide +kernel),
    gmul_combination 0x0b 2 0x0d 1 0x09 1 0x0e 3 byteLinear_const_zero (by decide +kernel),
    gmul_combination 0x0b 3 0x0d 2 0x09 1 0x0e 1 byteLinear_const_zero (by decide +kernel),
    gmul_combination 0x0b 1 0x0d 3 0x09 2 0x0e 1 byteLinear_const_zero (by decide +kernel),
    gmul_combination 0x0b 1 0x0d 1 0x09 3 0x0e 2 ByteLinear.id (by decide +kernel)]
  simp

theorem mixColumn_invMixColumn (q : Quad) : mixColumn (invMixColumn q) = q := by
  rw [invMixColumn_rows, mixColumn_rows]
  simp only [rowMul_rowMul]
  rw [gmul_combination 2 0x0e 3 0x09 1 0x0d 1 0x0b ByteLinear.id (by decide +kernel),
    gmul_combination 2 0x0b 3 0x0e 1 0x09 1 0x0d byteLinear_const_zero (by decide +kernel),
    gmul_combination 2 0x0d 3 0x0b 1 0x0e 1 0x09 byteLinear_const_zero (by decide +kernel),
    gmul_combination 2 0x09 3 0x0d 1 0x0b 1 0x0e byteLinear_const_zero (by decide +kernel),
    gmul_combination 1 0x0e 2 0x09 3 0x0d 1 0x0b byteLinear_const_zero (by decide +kernel),
    gmul_combination 1 0x0b 2 0x0e 3 0x09 1 0x0d ByteLinear.id (by decide +kernel),
    gmul_combination 1 0x0d 2 0x0b 3 0x0e 1 0x09 byteLinear_const_zero (by decide +kernel),
    gmul_combination 1 0x09 2 0x0d 3 0x0b 1 0x0e byteLinear_const_zero (by decide +kernel),
    gmul_combination 1 0x0e 1 0x09 2 0x0d 3 0x0b byteLinear_const_zero (by decide +kernel),
    gmul_combination 1 0x0b 1 0x0e 2 0x09 3 0x0d byteLinear_const_zero (by decide +kernel),
    gmul_combination 1 0x0d 1 0x0b 2 0x0e 3 0x09 ByteLinear.id (by decide +kernel),
    gmul_combination 1 0x09 1 0x0d 2 0x0b 3 0x0e byteLinear_const_zero (by decide +kernel),
    gmul_combination 3 0x0e 1 0x09 1 0x0d 2 0x0b byteLinear_const_zero (by decide +kernel),
    gmul_combination 3 0x0b 1 0x0e 1 0x09 2 0x0d byteLinear_const_zero (by decide +kernel),
    gmul_combination 3 0x0d 1 0x0b 1 0x0e 2 0x09 byteLinear_const_zero (by decide +kernel),
    gmul_combination 3 0x09 1 0x0d 1 0x0b 2 0x0e ByteLinear.id (by decide +kernel)]
  simp

/-! ## The round transformations and their inverses -/

theorem invSbox_sbox (a : Byte) : invSbox (sbox a) = a := by revert a; decide +kernel

theorem sbox_invSbox (a : Byte) : sbox (invSbox a) = a := by revert a; decide +kernel

@[simp] theorem invSubBytes_subBytes (s : Block) : invSubBytes (subBytes s) = s := by
  simp [invSubBytes, subBytes, mapBlock, mapQuad, invSbox_sbox]

@[simp] theorem subBytes_invSubBytes (s : Block) : subBytes (invSubBytes s) = s := by
  simp [invSubBytes, subBytes, mapBlock, mapQuad, sbox_invSbox]

@[simp] theorem invShiftRows_shiftRows (s : Block) : invShiftRows (shiftRows s) = s := rfl

@[simp] theorem shiftRows_invShiftRows (s : Block) : shiftRows (invShiftRows s) = s := rfl

@[simp] theorem invMixColumns_mixColumns (s : Block) : invMixColumns (mixColumns s) = s := by
  simp [invMixColumns, mixColumns, mapBlock, invMixColumn_mixColumn]

@[simp] theorem mixColumns_invMixColumns (s : Block) : mixColumns (invMixColumns s) = s := by
  simp [invMixColumns, mixColumns, mapBlock, mixColumn_invMixColumn]

@[simp] theorem xorQuad_xorQuad (p q : Quad) : xorQuad (xorQuad p q) q = p := by
  simp [xorQuad]

@[simp] theorem addRoundKey_addRoundKey (s : Block) (w : List Quad) (r : Nat) :
    addRoundKey (addRoundKey s w r) w r = s := by
  simp [addRoundKey, xorBlock]

/-! ## Blocks of a byte sequence -/

@[simp] theorem blockBytes_length (s : Block) : (blockBytes s).length = 16 := rfl

/-- Loading what was stored gives the state back (R199). -/
@[simp] theorem blockAt_blockBytes (s : Block) (rest : List Byte) : blockAt (blockBytes s ++ rest) 0 = s := rfl

/-- Storing what was loaded gives the sixteen bytes back (R199). -/
theorem blockBytes_blockAt (q : List Byte) (i : Nat) :
    blockBytes (blockAt q i) = (List.range 16).map fun k => q.getD (i + k) 0 := rfl

end Sys2Proof.Machine
end

