-- ==== Sys2Proof/Laws/Bytes.lean ====
section
/-! SUPPORT. The laws of encoded words: putting the bytes of a word back together, reading a field
of a joined word, and the bytes of a little-endian value. -/

namespace Sys2Proof

/-! ## The bits of joined words -/

theorem getLsbD_joinFour (b3 b2 b1 b0 : Byte) (i : Nat) :
    (b3 ++ b2 ++ b1 ++ b0 : Word).getLsbD i =
      if i < 8 then b0.getLsbD i else if i < 16 then b1.getLsbD (i - 8)
      else if i < 24 then b2.getLsbD (i - 16) else b3.getLsbD (i - 24) := by
  refine (BitVec.getLsbD_append (x := b3 ++ b2 ++ b1) (y := b0)).trans ?_
  rw [BitVec.getLsbD_append, BitVec.getLsbD_append]
  repeat' split
  all_goals first | rfl | omega

theorem getLsbD_joinEight (b7 b6 b5 b4 b3 b2 b1 b0 : Byte) (i : Nat) :
    (b7 ++ b6 ++ b5 ++ b4 ++ b3 ++ b2 ++ b1 ++ b0 : TxnWord).getLsbD i =
      if i < 8 then b0.getLsbD i else if i < 16 then b1.getLsbD (i - 8)
      else if i < 24 then b2.getLsbD (i - 16) else if i < 32 then b3.getLsbD (i - 24)
      else if i < 40 then b4.getLsbD (i - 32) else if i < 48 then b5.getLsbD (i - 40)
      else if i < 56 then b6.getLsbD (i - 48) else b7.getLsbD (i - 56) := by
  refine (BitVec.getLsbD_append (x := b7 ++ b6 ++ b5 ++ b4 ++ b3 ++ b2 ++ b1) (y := b0)).trans ?_
  rw [BitVec.getLsbD_append, BitVec.getLsbD_append, BitVec.getLsbD_append, BitVec.getLsbD_append,
    BitVec.getLsbD_append, BitVec.getLsbD_append]
  repeat' split
  all_goals first | rfl | omega

theorem getLsbD_joinTxn (write : BitVec 1) (size : BitVec 2) (off : Offset) (data : Word) (i : Nat) :
    (joinTxn write size off data).getLsbD i =
      if i < 32 then data.getLsbD i else if i < 50 then off.getLsbD (i - 32)
      else if i < 61 then false else if i < 63 then size.getLsbD (i - 61)
      else write.getLsbD (i - 63) := by
  refine (BitVec.getLsbD_append (x := write ++ size ++ 0#11 ++ off) (y := data)).trans ?_
  rw [BitVec.getLsbD_append, BitVec.getLsbD_append, BitVec.getLsbD_append]
  repeat' split
  all_goals first | rfl | omega | (simp only [BitVec.getLsbD_zero])

theorem getLsbD_joinCommand (op : BitVec 4) (rsvd : BitVec 28) (i : Nat) :
    (joinCommand op rsvd).getLsbD i = if i < 4 then op.getLsbD i else rsvd.getLsbD (i - 4) :=
  BitVec.getLsbD_append

/-! ## The bytes of a word -/

theorem joinBytes_commandBytes (cw : Word) :
    (cw.extractLsb' 24 8 ++ cw.extractLsb' 16 8 ++ cw.extractLsb' 8 8 ++ cw.extractLsb' 0 8 : Word) = cw :=
  BitVec.eq_of_getLsbD_eq fun i hi => by
    rw [getLsbD_joinFour]
    simp only [BitVec.getLsbD_extractLsb']
    repeat' split
    all_goals (rw [decide_eq_true (by omega), Bool.true_and]; congr 1; omega)

theorem joinBytes_txnBytes (w : TxnWord) :
    (w.extractLsb' 56 8 ++ w.extractLsb' 48 8 ++ w.extractLsb' 40 8 ++ w.extractLsb' 32 8 ++
      w.extractLsb' 24 8 ++ w.extractLsb' 16 8 ++ w.extractLsb' 8 8 ++ w.extractLsb' 0 8 : TxnWord) = w :=
  BitVec.eq_of_getLsbD_eq fun i hi => by
    rw [getLsbD_joinEight]
    simp only [BitVec.getLsbD_extractLsb']
    repeat' split
    all_goals (rw [decide_eq_true (by omega), Bool.true_and]; congr 1; omega)

/-- Decoding the four bytes of a command word decodes that word. -/
@[simp] theorem decode_commandBytes (cw : Word) : decode (commandBytes cw) = .ok (decodeCommand cw) := by
  simp only [decode, commandBytes, joinBytes_commandBytes]

/-- Decoding the eight bytes of a transaction word decodes that word. -/
@[simp] theorem decode_txnBytes (w : TxnWord) : decode (txnBytes w) = decodeTxn w := by
  simp only [decode, txnBytes, joinBytes_txnBytes]

/-! ## The fields of a joined word -/

section Fields

variable (write : BitVec 1) (size : BitVec 2) (off : Offset) (data : Word)

@[simp] theorem txnWrite_joinTxn : txnWrite (joinTxn write size off data) = write :=
  BitVec.eq_of_getLsbD_eq fun i hi => by
    rw [txnWrite, BitVec.getLsbD_extractLsb', getLsbD_joinTxn, decide_eq_true hi, Bool.true_and]
    repeat' split
    all_goals first | omega | (congr 1; omega)

@[simp] theorem txnSize_joinTxn : txnSize (joinTxn write size off data) = size :=
  BitVec.eq_of_getLsbD_eq fun i hi => by
    rw [txnSize, BitVec.getLsbD_extractLsb', getLsbD_joinTxn, decide_eq_true hi, Bool.true_and]
    repeat' split
    all_goals first | omega | (congr 1; omega)

@[simp] theorem txnRsvd_joinTxn : txnRsvd (joinTxn write size off data) = 0#11 :=
  BitVec.eq_of_getLsbD_eq fun i hi => by
    rw [txnRsvd, BitVec.getLsbD_extractLsb', getLsbD_joinTxn, decide_eq_true hi, Bool.true_and]
    repeat' split
    all_goals first | omega | simp

@[simp] theorem txnOffset_joinTxn : txnOffset (joinTxn write size off data) = off :=
  BitVec.eq_of_getLsbD_eq fun i hi => by
    rw [txnOffset, BitVec.getLsbD_extractLsb', getLsbD_joinTxn, decide_eq_true hi, Bool.true_and]
    repeat' split
    all_goals first | omega | (congr 1; omega)

@[simp] theorem txnData_joinTxn : txnData (joinTxn write size off data) = data :=
  BitVec.eq_of_getLsbD_eq fun i hi => by
    rw [txnData, BitVec.getLsbD_extractLsb', getLsbD_joinTxn, decide_eq_true hi, Bool.true_and]
    repeat' split
    all_goals first | omega | (congr 1; omega)

end Fields

theorem joinCommand_op (op : BitVec 4) (rsvd : BitVec 28) : (joinCommand op rsvd).extractLsb' 0 4 = op :=
  BitVec.eq_of_getLsbD_eq fun i hi => by
    rw [BitVec.getLsbD_extractLsb', getLsbD_joinCommand, decide_eq_true hi, Bool.true_and, if_pos (by omega)]
    congr 1; omega

theorem joinCommand_rsvd (op : BitVec 4) (rsvd : BitVec 28) : (joinCommand op rsvd).extractLsb' 4 28 = rsvd :=
  BitVec.eq_of_getLsbD_eq fun i hi => by
    rw [BitVec.getLsbD_extractLsb', getLsbD_joinCommand, decide_eq_true hi, Bool.true_and, if_neg (by omega)]
    congr 1; omega

theorem joinCommand_fields (cw : Word) : joinCommand (cw.extractLsb' 0 4) (cw.extractLsb' 4 28) = cw :=
  BitVec.eq_of_getLsbD_eq fun i hi => by
    rw [getLsbD_joinCommand]
    simp only [BitVec.getLsbD_extractLsb']
    split <;> (rw [decide_eq_true (by omega), Bool.true_and]; congr 1; omega)

end Sys2Proof

namespace Sys2Proof.Machine

/-! ## Little-endian values -/

/-- A little-endian value depends on its bytes only (R85). -/
theorem leValue_congr {f g : Nat → Byte} {n : Nat} (h : ∀ k < n, f k = g k) : leValue f n = leValue g n := by
  induction n with
  | zero => rfl
  | succ n ih => simp only [leValue, ih fun k hk => h k (by omega), h n (by omega)]

@[simp] theorem bytesOf_length (f : Nat → Byte) (n : Nat) : (bytesOf f n).length = n := by
  simp [bytesOf]

theorem bytesOf_getD (f : Nat → Byte) (n k : Nat) (h : k < n) : (bytesOf f n).getD k 0 = f k := by
  simp [bytesOf, h]

theorem bytesOf_congr {f g : Nat → Byte} {n : Nat} (h : ∀ k < n, f k = g k) : bytesOf f n = bytesOf g n := by
  simp only [bytesOf]
  exact List.map_congr_left fun k hk => h k (List.mem_range.1 hk)

/-- Appending a byte below a value, as numbers. -/
theorem toNat_append_byte {n : Nat} (x : BitVec n) (b : Byte) : (x ++ b).toNat = x.toNat * 256 + b.toNat := by
  rw [BitVec.toNat_append, ← Nat.shiftLeft_add_eq_or_of_lt b.isLt, Nat.shiftLeft_eq]

/-- A 1-byte little-endian value is its byte (R85). -/
theorem leValue_one (f : Nat → Byte) : leValue f 1 = (f 0).setWidth 32 := by simp [leValue]

/-- A 2-byte little-endian value has byte 0 lowest (R85). -/
theorem leValue_two (f : Nat → Byte) : leValue f 2 = (f 1 ++ f 0).setWidth 32 := by
  apply BitVec.eq_of_toNat_eq
  have h0 := (f 0).isLt
  have h1 := (f 1).isLt
  simp only [leValue, BitVec.toNat_add, BitVec.toNat_shiftLeft, BitVec.toNat_setWidth, Nat.shiftLeft_eq,
    toNat_append_byte]
  simp
  omega

/-- A 4-byte little-endian value has byte 0 lowest (R85). -/
theorem leValue_four (f : Nat → Byte) : leValue f 4 = f 3 ++ f 2 ++ f 1 ++ f 0 := by
  apply BitVec.eq_of_toNat_eq
  have h0 := (f 0).isLt
  have h1 := (f 1).isLt
  have h2 := (f 2).isLt
  have h3 := (f 3).isLt
  refine Eq.trans ?_ (toNat_append_byte (f 3 ++ f 2 ++ f 1) (f 0)).symm
  rw [toNat_append_byte, toNat_append_byte]
  simp only [leValue, BitVec.toNat_add, BitVec.toNat_shiftLeft, BitVec.toNat_setWidth, Nat.shiftLeft_eq]
  simp
  omega

end Sys2Proof.Machine
end

