-- ==== Sys2Proof/Laws/Frame.lean ====
section
/-! SUPPORT. The laws of frames: lengths of padded and transformed frames, the bytes of a frame
transformed block by block, and which causes RESULT can give. -/

namespace Sys2Proof.Machine

/-! ## Padding -/

theorem padCount_pos (n : Nat) : 1 ≤ padCount n := by simp only [padCount]; omega

theorem padCount_le (n : Nat) : padCount n ≤ 16 := by simp only [padCount]; omega

/-- The padded length (R171). -/
theorem pad_length (p : List Byte) : (pad p).length = 16 * (p.length / 16 + 1) := by
  simp only [pad, List.length_append, List.length_replicate, padCount]; omega

/-- UNPAD strips between 1 and 16 bytes (R173). -/
theorem unpad_eq_some {q p : List Byte} (h : unpad q = some p) :
    ∃ n, 1 ≤ n ∧ n ≤ 16 ∧ p = q.take (q.length - n) ∧ ∀ x ∈ q.drop (q.length - n), x = BitVec.ofNat 8 n := by
  unfold unpad at h
  split at h
  · rename_i hc
    refine ⟨(lastByte q).toNat, hc.1, hc.2.1, (Option.some.inj h).symm, ?_⟩
    simpa using hc.2.2
  · cases h

/-! ## Block by block -/

@[simp] theorem ecb_length (f : Block → Block) (q : List Byte) : (ecb f q).length = 16 * (q.length / 16) := by
  have key : ∀ l : List Nat, (l.flatMap fun j => blockBytes (f (blockAt q (16 * j)))).length = 16 * l.length := by
    intro l
    induction l with
    | nil => rfl
    | cons j l ih => simp only [List.flatMap_cons, List.length_append, ih, blockBytes_length,
        List.length_cons]; omega
  simp only [ecb, key, List.length_range]

theorem encryptFrame_length (w : List Quad) (nr : Nat) (p : List Byte) :
    (encryptFrame w nr p).length = 16 * (p.length / 16 + 1) := by
  simp only [encryptFrame, ecb_length, pad_length]; omega

theorem decryptFrame_length (w : List Quad) (nr : Nat) (c : List Byte) (h : c.length % 16 = 0) :
    (decryptFrame w nr c).length = c.length := by
  simp only [decryptFrame, ecb_length]; omega

/-- Pieces of 16 bytes each, one after the other: byte `16j + k` is byte `k` of piece `j`. -/
theorem getD_flatMap_blocks (g : Nat → List Byte) (hg : ∀ j, (g j).length = 16) (l : List Nat) (j k : Nat)
    (hk : k < 16) (hj : j < l.length) :
    (l.flatMap g).getD (16 * j + k) 0 = (g (l.getD j 0)).getD k 0 := by
  induction l generalizing j with
  | nil => simp at hj
  | cons a l ih =>
    rw [List.flatMap_cons]
    cases j with
    | zero =>
      rw [List.getD_append _ _ _ _ (by rw [hg]; omega)]
      simp
    | succ j =>
      rw [List.getD_append_right _ _ _ _ (by rw [hg]; omega), hg]
      rw [show 16 * (j + 1) + k - 16 = 16 * j + k by omega, ih j (by simpa using hj)]
      simp

/-- Byte `16j + k` of a transformed frame is byte `k` of the transformed block `j` (R242). -/
theorem ecb_getD (f : Block → Block) (q : List Byte) (j k : Nat) (hk : k < 16) (hj : j < q.length / 16) :
    (ecb f q).getD (16 * j + k) 0 = (blockBytes (f (blockAt q (16 * j)))).getD k 0 := by
  rw [ecb, getD_flatMap_blocks (fun j => blockBytes (f (blockAt q (16 * j)))) (fun _ => rfl) _ j k hk
    (by simpa using hj)]
  simp [hj]

/-- A block is its sixteen bytes. -/
theorem blockAt_congr {p q : List Byte} {i j : Nat} (h : ∀ k < 16, p.getD (i + k) 0 = q.getD (j + k) 0) :
    blockAt p i = blockAt q j := by
  have h0 := h 0 (by omega)
  simp only [Nat.add_zero] at h0
  simp only [blockAt, quadAt, Nat.add_assoc, Nat.reduceAdd, h0, h 1 (by omega), h 2 (by omega), h 3 (by omega),
    h 4 (by omega), h 5 (by omega), h 6 (by omega), h 7 (by omega), h 8 (by omega), h 9 (by omega),
    h 10 (by omega), h 11 (by omega), h 12 (by omega), h 13 (by omega), h 14 (by omega), h 15 (by omega)]

/-- Block `j` of a transformed frame is the transformed block `j` (R242). -/
theorem blockAt_ecb (f : Block → Block) (q : List Byte) (j : Nat) (hj : j < q.length / 16) :
    blockAt (ecb f q) (16 * j) = f (blockAt q (16 * j)) := by
  rw [blockAt_congr (q := blockBytes (f (blockAt q (16 * j)))) (j := 0) fun k hk => by
    rw [ecb_getD f q j k hk hj, Nat.zero_add]]
  exact (congrArg (blockAt · 0) (List.append_nil _).symm).trans (blockAt_blockBytes _ [])

/-! ## RESULT -/

/-- The only configurations SELECT gives (R140). -/
theorem select_eq_some {klen : Word} {c : Nat × Nat} (h : select klen = some c) :
    (klen = 16 ∧ c = (4, 10)) ∨ (klen = 24 ∧ c = (6, 12)) ∨ (klen = 32 ∧ c = (8, 14)) := by
  unfold select at h
  split at h
  · exact .inl ⟨‹_›, (Option.some.inj h).symm⟩
  · split at h
    · exact .inr (.inl ⟨‹_›, (Option.some.inj h).symm⟩)
    · split at h
      · exact .inr (.inr ⟨‹_›, (Option.some.inj h).symm⟩)
      · cases h

/-- Where RESULT's checks pass, a Value of ENCRYPT is the enciphered padded frame (R235). -/
theorem result_encrypt_value {kp dp : Bool} {klen dlen : Word} {keyb inb : Nat → Byte} {m : Nat} {B : List Byte}
    (h : result .encrypt kp dp klen keyb dlen inb m = .value B) :
    dlen.toNat ≤ m ∧ ∃ nk nr, select klen = some (nk, nr) ∧
      B = encryptFrame (keyExpansion (bytesOf keyb klen.toNat) nk nr) nr (bytesOf inb dlen.toNat) := by
  unfold result at h
  split at h
  · cases h
  · split at h
    · cases h
    · rename_i nk nr hs
      split at h
      · cases h
      · split at h
        · cases h
        · exact ⟨by omega, nk, nr, hs, (Result.value.inj h).symm⟩

/-- Where RESULT's checks pass, a Value of DECRYPT is the unpadded deciphered frame (R235). -/
theorem result_decrypt_value {kp dp : Bool} {klen dlen : Word} {keyb inb : Nat → Byte} {m : Nat} {B : List Byte}
    (h : result .decrypt kp dp klen keyb dlen inb m = .value B) :
    dlen.toNat ≤ m ∧ dlen.toNat % 16 = 0 ∧ dlen ≠ 0 ∧ ∃ nk nr, select klen = some (nk, nr) ∧
      unpad (decryptFrame (keyExpansion (bytesOf keyb klen.toNat) nk nr) nr (bytesOf inb dlen.toNat)) = some B := by
  unfold result at h
  split at h
  · cases h
  · split at h
    · cases h
    · rename_i nk nr hs
      split at h
      · cases h
      · rename_i hc
        split at h
        · cases h
        · simp only at h
          split at h
          · cases h
          · rename_i p hp
            cases h
            refine ⟨by omega, ?_, ?_, nk, nr, hs, hp⟩
            · by_contra hne; exact hc ⟨rfl, .inr hne⟩
            · intro h0; exact hc ⟨rfl, .inl h0⟩

/-- Every Value fits OUT_BUF (R252). -/
theorem result_value_length {op : Op} {kp dp : Bool} {klen dlen : Word} {keyb inb : Nat → Byte} {m : Nat}
    {B : List Byte} (h : result op kp dp klen keyb dlen inb m = .value B) : B.length ≤ m + 16 := by
  cases op with
  | encrypt =>
    obtain ⟨hle, nk, nr, -, rfl⟩ := result_encrypt_value h
    rw [encryptFrame_length, bytesOf_length]; omega
  | decrypt =>
    obtain ⟨hle, hmod, -, nk, nr, -, hu⟩ := result_decrypt_value h
    obtain ⟨n, -, -, rfl, -⟩ := unpad_eq_some hu
    rw [List.length_take, decryptFrame_length _ _ _ (by rwa [bytesOf_length]), bytesOf_length]; omega

theorem causeCode_ne_zero (c : Cause) : causeCode c ≠ 0 := by cases c <;> decide

theorem causeCode_le (c : Cause) : (causeCode c).toNat ≤ 5 := by cases c <;> decide

end Sys2Proof.Machine
end

