-- ==== Sys2Proof/Laws/Memory.lean ====
section
/-! SUPPORT. The laws of memory: a read after a write, the canonical form kept by every memory
operation, and the bounds of the listed indexes. -/

namespace Sys2Proof.Machine

variable {b : Buffer} {m : List Host.Cell} {i j n : Nat} {v : Byte}

/-! ## Reading an index that is not listed -/

theorem Memory.lookup_of_not_listed (h : ∀ c ∈ m, c.1 ≠ i) : Memory.lookup b m i = unlisted b := by
  induction m with
  | nil => rfl
  | cons c rest ih =>
    have hc : i ≠ c.1 := fun e => h c (by simp) e.symm
    simp only [Memory.lookup, if_neg hc]
    exact ih fun d hd => h d (by simp [hd])

theorem Memory.wf_tail {c : Host.Cell} (h : Memory.wf b (c :: m)) : Memory.wf b m :=
  ⟨(List.pairwise_cons.1 h.1).2, fun d hd => h.2 d (by simp [hd])⟩

theorem Memory.wf_lt {c d : Host.Cell} (h : Memory.wf b (c :: m)) (hd : d ∈ m) : c.1 < d.1 :=
  (List.pairwise_cons.1 h.1).1 d hd

theorem Memory.wf_cons {c : Host.Cell} (hm : Memory.wf b m) (hlt : ∀ d ∈ m, c.1 < d.1)
    (hc : unlisted b ≠ some c.2) : Memory.wf b (c :: m) :=
  ⟨List.pairwise_cons.2 ⟨hlt, hm.1⟩, by
    intro d hd
    rcases List.mem_cons.1 hd with rfl | hd
    · exact hc
    · exact hm.2 d hd⟩

theorem Memory.lookup_lt (hi : ∀ c ∈ m, i < c.1) :
    Memory.lookup b m i = unlisted b :=
  Memory.lookup_of_not_listed fun c hc => by have := hi c hc; omega

/-! ## Writing one byte -/

/-- What `insert` lists comes from the write or from what was listed before. -/
theorem Memory.mem_insert {c : Host.Cell} (h : c ∈ Memory.insert b m i v) : c = (i, v) ∨ c ∈ m := by
  induction m with
  | nil =>
    simp only [Memory.insert] at h
    split at h <;> simp_all
  | cons d rest ih =>
    simp only [Memory.insert] at h
    split at h
    · split at h <;> simp_all
    · split at h
      · split at h
        · exact .inr (by simp [h])
        · rcases List.mem_cons.1 h with h | h
          · exact .inl h
          · exact .inr (by simp [h])
      · rcases List.mem_cons.1 h with h | h
        · exact .inr (by simp [h])
        · rcases ih h with h | h
          · exact .inl h
          · exact .inr (by simp [h])

/-- A write keeps the canonical form. -/
theorem Memory.insert_wf (h : Memory.wf b m) : Memory.wf b (Memory.insert b m i v) := by
  induction m with
  | nil =>
    simp only [Memory.insert]
    split
    · exact h
    · exact Memory.wf_cons h (by simp) ‹_›
  | cons d rest ih =>
    have ht := Memory.wf_tail h
    have hlt := fun e he => Memory.wf_lt (d := e) h he
    simp only [Memory.insert]
    split
    · split
      · exact h
      · refine Memory.wf_cons h (fun e he => ?_) ‹_›
        rcases List.mem_cons.1 he with rfl | he
        · assumption
        · exact Nat.lt_trans ‹_› (hlt e he)
    · split
      · subst i
        split
        · exact ht
        · exact Memory.wf_cons ht hlt ‹_›
      · refine Memory.wf_cons (ih ht) (fun e he => ?_) (h.2 d (by simp))
        rcases Memory.mem_insert he with rfl | he
        · simp only; omega
        · exact hlt e he

/-- A write below a bound keeps the bound. -/
theorem Memory.insert_below (h : Memory.below n m) (hi : i < n) :
    Memory.below n (Memory.insert b m i v) := fun c hc => by
  rcases Memory.mem_insert hc with rfl | hc
  · exact hi
  · exact h c hc

/-- A read after a write to the same index gives the value written. -/
theorem Memory.lookup_insert_self (h : Memory.wf b m) :
    Memory.lookup b (Memory.insert b m i v) i = some v := by
  induction m with
  | nil =>
    simp only [Memory.insert]
    split
    · simpa [Memory.lookup]
    · simp [Memory.lookup]
  | cons d rest ih =>
    have hlt := fun e he => Memory.wf_lt (d := e) h he
    simp only [Memory.insert]
    split
    · split
      · rw [Memory.lookup_lt ?_]
        · assumption
        · intro e he
          rcases List.mem_cons.1 he with rfl | he
          · assumption
          · exact Nat.lt_trans ‹_› (hlt e he)
      · simp [Memory.lookup]
    · split
      · subst i
        split
        · rw [Memory.lookup_lt hlt]; assumption
        · simp [Memory.lookup]
      · rename_i h1
        simp only [Memory.lookup, if_neg h1]
        exact ih (Memory.wf_tail h)

/-- A write leaves every other index alone. -/
theorem Memory.lookup_insert_other (h : j ≠ i) :
    Memory.lookup b (Memory.insert b m i v) j = Memory.lookup b m j := by
  induction m with
  | nil =>
    simp only [Memory.insert]
    split
    · rfl
    · simp [Memory.lookup, h]
  | cons d rest ih =>
    simp only [Memory.insert]
    split
    · split
      · rfl
      · simp [Memory.lookup, h]
    · split
      · subst i
        split <;> simp [Memory.lookup, h]
      · simp [Memory.lookup, ih]

/-! ## A whole byte sequence -/

theorem Memory.mem_ofBytes {vs : List Byte} {c : Host.Cell} (h : c ∈ Memory.ofBytes b i vs) :
    i ≤ c.1 ∧ c.1 < i + vs.length ∧ unlisted b ≠ some c.2 := by
  induction vs generalizing i with
  | nil => simp [Memory.ofBytes] at h
  | cons u us ih =>
    simp only [Memory.ofBytes] at h
    split at h
    · obtain ⟨h1, h2, h3⟩ := ih h
      exact ⟨by omega, by simp only [List.length_cons]; omega, h3⟩
    · rcases List.mem_cons.1 h with rfl | h
      · exact ⟨by simp, by simp, ‹_›⟩
      · obtain ⟨h1, h2, h3⟩ := ih h
        exact ⟨by omega, by simp only [List.length_cons]; omega, h3⟩

theorem Memory.ofBytes_wf (vs : List Byte) : Memory.wf b (Memory.ofBytes b i vs) := by
  induction vs generalizing i with
  | nil => exact ⟨List.Pairwise.nil, by simp [Memory.ofBytes]⟩
  | cons u us ih =>
    simp only [Memory.ofBytes]
    split
    · exact ih
    · exact Memory.wf_cons ih (fun d hd => by have := (Memory.mem_ofBytes hd).1; simp only; omega) ‹_›

theorem Memory.ofBytes_below (vs : List Byte) :
    Memory.below (i + vs.length) (Memory.ofBytes b i vs) := fun _ hc => (Memory.mem_ofBytes hc).2.1

/-- Memory made of a byte sequence holds byte `j` of it at index `i + j`, and is unlisted elsewhere. -/
theorem Memory.lookup_ofBytes (vs : List Byte) :
    Memory.lookup b (Memory.ofBytes b i vs) j =
      if i ≤ j ∧ j < i + vs.length then some (vs.getD (j - i) 0) else unlisted b := by
  induction vs generalizing i with
  | nil => simp [Memory.ofBytes, Memory.lookup]
  | cons u us ih =>
    have key : ∀ x, (if i + 1 ≤ j ∧ j < i + 1 + us.length then some (us.getD (j - (i + 1)) 0) else unlisted b) = x →
        j ≠ i → (if i ≤ j ∧ j < i + (u :: us).length then some ((u :: us).getD (j - i) 0) else unlisted b) = x := by
      intro x hx hj
      rw [← hx]
      by_cases hc : i + 1 ≤ j ∧ j < i + 1 + us.length
      · have hs : j - i = (j - (i + 1)) + 1 := by omega
        rw [if_pos hc, if_pos ⟨by omega, by simp only [List.length_cons]; omega⟩, hs, List.getD_cons_succ]
      · rw [if_neg hc, if_neg]
        simp only [List.length_cons]; omega
    simp only [Memory.ofBytes]
    split
    · by_cases hj : j = i
      · subst hj
        rw [ih, if_neg (by omega), if_pos ⟨Nat.le_refl _, by simp⟩]
        simpa using ‹unlisted b = some u›
      · rw [ih]; exact (key _ rfl hj).symm
    · by_cases hj : j = i
      · subst hj
        simp [Memory.lookup]
      · simp only [Memory.lookup, if_neg hj]
        rw [ih]; exact (key _ rfl hj).symm

/-! ## Wide stores to IN_BUF -/

theorem storeIn_wf {v : Word} (h : Memory.wf .input m) : Memory.wf .input (storeIn v i n m) := by
  induction n with
  | zero => exact h
  | succ n ih => exact Memory.insert_wf ih

theorem storeIn_below {v : Word} {k : Nat} (h : Memory.below k m) (hi : i + n ≤ k) :
    Memory.below k (storeIn v i n m) := by
  induction n with
  | zero => exact h
  | succ n ih => exact Memory.insert_below (ih (by omega)) (by omega)

/-- A store of `n` bytes from index `i` on: the bytes of the value there, and nothing elsewhere. -/
theorem lookup_storeIn {v : Word} (h : Memory.wf .input m) :
    Memory.lookup .input (storeIn v i n m) j =
      if i ≤ j ∧ j < i + n then some (wordByte v (j - i)) else Memory.lookup .input m j := by
  induction n with
  | zero => rw [if_neg (by omega)]; rfl
  | succ n ih =>
    by_cases hj : j = i + n
    · subst hj
      rw [if_pos ⟨by omega, by omega⟩, storeIn, Memory.lookup_insert_self (storeIn_wf h)]
      simp
    · rw [storeIn, Memory.lookup_insert_other hj, ih]
      by_cases hc : i ≤ j ∧ j < i + n
      · rw [if_pos hc, if_pos ⟨hc.1, by omega⟩]
      · rw [if_neg hc, if_neg (by omega)]

end Sys2Proof.Machine
end

