-- ==== Sys2Proof/Laws/State.lean ====
section
/-! SUPPORT. One lemma per field of State and update, each true by unfolding the update once, so
that no later proof unfolds a record update. -/

namespace Sys2Proof.Machine

/-! ## respond -/

@[simp] theorem respond_maxFrame (r : Response) (s : State) :
    (respond r s).maxFrame = s.maxFrame := rfl

@[simp] theorem respond_irqEn (r : Response) (s : State) :
    (respond r s).irqEn = s.irqEn := rfl

@[simp] theorem respond_busy (r : Response) (s : State) :
    (respond r s).busy = s.busy := rfl

@[simp] theorem respond_done (r : Response) (s : State) :
    (respond r s).done = s.done := rfl

@[simp] theorem respond_value (r : Response) (s : State) :
    (respond r s).value = s.value := rfl

@[simp] theorem respond_cause (r : Response) (s : State) :
    (respond r s).cause = s.cause := rfl

@[simp] theorem respond_illegalCmd (r : Response) (s : State) :
    (respond r s).illegalCmd = s.illegalCmd := rfl

@[simp] theorem respond_cmdWhileBusy (r : Response) (s : State) :
    (respond r s).cmdWhileBusy = s.cmdWhileBusy := rfl

@[simp] theorem respond_writeWhileBusy (r : Response) (s : State) :
    (respond r s).writeWhileBusy = s.writeWhileBusy := rfl

@[simp] theorem respond_irqDone (r : Response) (s : State) :
    (respond r s).irqDone = s.irqDone := rfl

@[simp] theorem respond_keyPresent (r : Response) (s : State) :
    (respond r s).keyPresent = s.keyPresent := rfl

@[simp] theorem respond_dataPresent (r : Response) (s : State) :
    (respond r s).dataPresent = s.dataPresent := rfl

@[simp] theorem respond_keyLen (r : Response) (s : State) :
    (respond r s).keyLen = s.keyLen := rfl

@[simp] theorem respond_dataLen (r : Response) (s : State) :
    (respond r s).dataLen = s.dataLen := rfl

@[simp] theorem respond_outLen (r : Response) (s : State) :
    (respond r s).outLen = s.outLen := rfl

@[simp] theorem respond_key (r : Response) (s : State) :
    (respond r s).key = s.key := rfl

@[simp] theorem respond_inBuf (r : Response) (s : State) :
    (respond r s).inBuf = s.inBuf := rfl

@[simp] theorem respond_outBuf (r : Response) (s : State) :
    (respond r s).outBuf = s.outBuf := rfl

@[simp] theorem respond_phase (r : Response) (s : State) :
    (respond r s).phase = s.phase := rfl

@[simp] theorem respond_datapath (r : Response) (s : State) :
    (respond r s).datapath = s.datapath := rfl

@[simp] theorem respond_response (r : Response) (s : State) :
    (respond r s).response = some r := rfl

@[simp] theorem respond_resets (r : Response) (s : State) :
    (respond r s).resets = s.resets := rfl

@[simp] theorem respond_draws (r : Response) (s : State) :
    (respond r s).draws = s.draws := rfl

@[simp] theorem respond_schedule (r : Response) (s : State) :
    (respond r s).schedule = s.schedule := rfl

/-! ## busError -/

@[simp] theorem busError_maxFrame (s : State) :
    (busError s).maxFrame = s.maxFrame := rfl

@[simp] theorem busError_irqEn (s : State) :
    (busError s).irqEn = s.irqEn := rfl

@[simp] theorem busError_busy (s : State) :
    (busError s).busy = s.busy := rfl

@[simp] theorem busError_done (s : State) :
    (busError s).done = s.done := rfl

@[simp] theorem busError_value (s : State) :
    (busError s).value = s.value := rfl

@[simp] theorem busError_cause (s : State) :
    (busError s).cause = s.cause := rfl

@[simp] theorem busError_illegalCmd (s : State) :
    (busError s).illegalCmd = s.illegalCmd := rfl

@[simp] theorem busError_cmdWhileBusy (s : State) :
    (busError s).cmdWhileBusy = s.cmdWhileBusy := rfl

@[simp] theorem busError_writeWhileBusy (s : State) :
    (busError s).writeWhileBusy = s.writeWhileBusy := rfl

@[simp] theorem busError_irqDone (s : State) :
    (busError s).irqDone = s.irqDone := rfl

@[simp] theorem busError_keyPresent (s : State) :
    (busError s).keyPresent = s.keyPresent := rfl

@[simp] theorem busError_dataPresent (s : State) :
    (busError s).dataPresent = s.dataPresent := rfl

@[simp] theorem busError_keyLen (s : State) :
    (busError s).keyLen = s.keyLen := rfl

@[simp] theorem busError_dataLen (s : State) :
    (busError s).dataLen = s.dataLen := rfl

@[simp] theorem busError_outLen (s : State) :
    (busError s).outLen = s.outLen := rfl

@[simp] theorem busError_key (s : State) :
    (busError s).key = s.key := rfl

@[simp] theorem busError_inBuf (s : State) :
    (busError s).inBuf = s.inBuf := rfl

@[simp] theorem busError_outBuf (s : State) :
    (busError s).outBuf = s.outBuf := rfl

@[simp] theorem busError_phase (s : State) :
    (busError s).phase = s.phase := rfl

@[simp] theorem busError_datapath (s : State) :
    (busError s).datapath = s.datapath := rfl

@[simp] theorem busError_response (s : State) :
    (busError s).response = some .busError := rfl

@[simp] theorem busError_resets (s : State) :
    (busError s).resets = s.resets := rfl

@[simp] theorem busError_draws (s : State) :
    (busError s).draws = s.draws := rfl

@[simp] theorem busError_schedule (s : State) :
    (busError s).schedule = s.schedule := rfl

/-! ## setIllegalCmd -/

@[simp] theorem setIllegalCmd_maxFrame (s : State) :
    (setIllegalCmd s).maxFrame = s.maxFrame := rfl

@[simp] theorem setIllegalCmd_irqEn (s : State) :
    (setIllegalCmd s).irqEn = s.irqEn := rfl

@[simp] theorem setIllegalCmd_busy (s : State) :
    (setIllegalCmd s).busy = s.busy := rfl

@[simp] theorem setIllegalCmd_done (s : State) :
    (setIllegalCmd s).done = s.done := rfl

@[simp] theorem setIllegalCmd_value (s : State) :
    (setIllegalCmd s).value = s.value := rfl

@[simp] theorem setIllegalCmd_cause (s : State) :
    (setIllegalCmd s).cause = s.cause := rfl

@[simp] theorem setIllegalCmd_illegalCmd (s : State) :
    (setIllegalCmd s).illegalCmd = true := rfl

@[simp] theorem setIllegalCmd_cmdWhileBusy (s : State) :
    (setIllegalCmd s).cmdWhileBusy = s.cmdWhileBusy := rfl

@[simp] theorem setIllegalCmd_writeWhileBusy (s : State) :
    (setIllegalCmd s).writeWhileBusy = s.writeWhileBusy := rfl

@[simp] theorem setIllegalCmd_irqDone (s : State) :
    (setIllegalCmd s).irqDone = s.irqDone := rfl

@[simp] theorem setIllegalCmd_keyPresent (s : State) :
    (setIllegalCmd s).keyPresent = s.keyPresent := rfl

@[simp] theorem setIllegalCmd_dataPresent (s : State) :
    (setIllegalCmd s).dataPresent = s.dataPresent := rfl

@[simp] theorem setIllegalCmd_keyLen (s : State) :
    (setIllegalCmd s).keyLen = s.keyLen := rfl

@[simp] theorem setIllegalCmd_dataLen (s : State) :
    (setIllegalCmd s).dataLen = s.dataLen := rfl

@[simp] theorem setIllegalCmd_outLen (s : State) :
    (setIllegalCmd s).outLen = s.outLen := rfl

@[simp] theorem setIllegalCmd_key (s : State) :
    (setIllegalCmd s).key = s.key := rfl

@[simp] theorem setIllegalCmd_inBuf (s : State) :
    (setIllegalCmd s).inBuf = s.inBuf := rfl

@[simp] theorem setIllegalCmd_outBuf (s : State) :
    (setIllegalCmd s).outBuf = s.outBuf := rfl

@[simp] theorem setIllegalCmd_phase (s : State) :
    (setIllegalCmd s).phase = s.phase := rfl

@[simp] theorem setIllegalCmd_datapath (s : State) :
    (setIllegalCmd s).datapath = s.datapath := rfl

@[simp] theorem setIllegalCmd_response (s : State) :
    (setIllegalCmd s).response = s.response := rfl

@[simp] theorem setIllegalCmd_resets (s : State) :
    (setIllegalCmd s).resets = s.resets := rfl

@[simp] theorem setIllegalCmd_draws (s : State) :
    (setIllegalCmd s).draws = s.draws := rfl

@[simp] theorem setIllegalCmd_schedule (s : State) :
    (setIllegalCmd s).schedule = s.schedule := rfl

/-! ## setCmdWhileBusy -/

@[simp] theorem setCmdWhileBusy_maxFrame (s : State) :
    (setCmdWhileBusy s).maxFrame = s.maxFrame := rfl

@[simp] theorem setCmdWhileBusy_irqEn (s : State) :
    (setCmdWhileBusy s).irqEn = s.irqEn := rfl

@[simp] theorem setCmdWhileBusy_busy (s : State) :
    (setCmdWhileBusy s).busy = s.busy := rfl

@[simp] theorem setCmdWhileBusy_done (s : State) :
    (setCmdWhileBusy s).done = s.done := rfl

@[simp] theorem setCmdWhileBusy_value (s : State) :
    (setCmdWhileBusy s).value = s.value := rfl

@[simp] theorem setCmdWhileBusy_cause (s : State) :
    (setCmdWhileBusy s).cause = s.cause := rfl

@[simp] theorem setCmdWhileBusy_illegalCmd (s : State) :
    (setCmdWhileBusy s).illegalCmd = s.illegalCmd := rfl

@[simp] theorem setCmdWhileBusy_cmdWhileBusy (s : State) :
    (setCmdWhileBusy s).cmdWhileBusy = true := rfl

@[simp] theorem setCmdWhileBusy_writeWhileBusy (s : State) :
    (setCmdWhileBusy s).writeWhileBusy = s.writeWhileBusy := rfl

@[simp] theorem setCmdWhileBusy_irqDone (s : State) :
    (setCmdWhileBusy s).irqDone = s.irqDone := rfl

@[simp] theorem setCmdWhileBusy_keyPresent (s : State) :
    (setCmdWhileBusy s).keyPresent = s.keyPresent := rfl

@[simp] theorem setCmdWhileBusy_dataPresent (s : State) :
    (setCmdWhileBusy s).dataPresent = s.dataPresent := rfl

@[simp] theorem setCmdWhileBusy_keyLen (s : State) :
    (setCmdWhileBusy s).keyLen = s.keyLen := rfl

@[simp] theorem setCmdWhileBusy_dataLen (s : State) :
    (setCmdWhileBusy s).dataLen = s.dataLen := rfl

@[simp] theorem setCmdWhileBusy_outLen (s : State) :
    (setCmdWhileBusy s).outLen = s.outLen := rfl

@[simp] theorem setCmdWhileBusy_key (s : State) :
    (setCmdWhileBusy s).key = s.key := rfl

@[simp] theorem setCmdWhileBusy_inBuf (s : State) :
    (setCmdWhileBusy s).inBuf = s.inBuf := rfl

@[simp] theorem setCmdWhileBusy_outBuf (s : State) :
    (setCmdWhileBusy s).outBuf = s.outBuf := rfl

@[simp] theorem setCmdWhileBusy_phase (s : State) :
    (setCmdWhileBusy s).phase = s.phase := rfl

@[simp] theorem setCmdWhileBusy_datapath (s : State) :
    (setCmdWhileBusy s).datapath = s.datapath := rfl

@[simp] theorem setCmdWhileBusy_response (s : State) :
    (setCmdWhileBusy s).response = s.response := rfl

@[simp] theorem setCmdWhileBusy_resets (s : State) :
    (setCmdWhileBusy s).resets = s.resets := rfl

@[simp] theorem setCmdWhileBusy_draws (s : State) :
    (setCmdWhileBusy s).draws = s.draws := rfl

@[simp] theorem setCmdWhileBusy_schedule (s : State) :
    (setCmdWhileBusy s).schedule = s.schedule := rfl

/-! ## setWriteWhileBusy -/

@[simp] theorem setWriteWhileBusy_maxFrame (s : State) :
    (setWriteWhileBusy s).maxFrame = s.maxFrame := rfl

@[simp] theorem setWriteWhileBusy_irqEn (s : State) :
    (setWriteWhileBusy s).irqEn = s.irqEn := rfl

@[simp] theorem setWriteWhileBusy_busy (s : State) :
    (setWriteWhileBusy s).busy = s.busy := rfl

@[simp] theorem setWriteWhileBusy_done (s : State) :
    (setWriteWhileBusy s).done = s.done := rfl

@[simp] theorem setWriteWhileBusy_value (s : State) :
    (setWriteWhileBusy s).value = s.value := rfl

@[simp] theorem setWriteWhileBusy_cause (s : State) :
    (setWriteWhileBusy s).cause = s.cause := rfl

@[simp] theorem setWriteWhileBusy_illegalCmd (s : State) :
    (setWriteWhileBusy s).illegalCmd = s.illegalCmd := rfl

@[simp] theorem setWriteWhileBusy_cmdWhileBusy (s : State) :
    (setWriteWhileBusy s).cmdWhileBusy = s.cmdWhileBusy := rfl

@[simp] theorem setWriteWhileBusy_writeWhileBusy (s : State) :
    (setWriteWhileBusy s).writeWhileBusy = true := rfl

@[simp] theorem setWriteWhileBusy_irqDone (s : State) :
    (setWriteWhileBusy s).irqDone = s.irqDone := rfl

@[simp] theorem setWriteWhileBusy_keyPresent (s : State) :
    (setWriteWhileBusy s).keyPresent = s.keyPresent := rfl

@[simp] theorem setWriteWhileBusy_dataPresent (s : State) :
    (setWriteWhileBusy s).dataPresent = s.dataPresent := rfl

@[simp] theorem setWriteWhileBusy_keyLen (s : State) :
    (setWriteWhileBusy s).keyLen = s.keyLen := rfl

@[simp] theorem setWriteWhileBusy_dataLen (s : State) :
    (setWriteWhileBusy s).dataLen = s.dataLen := rfl

@[simp] theorem setWriteWhileBusy_outLen (s : State) :
    (setWriteWhileBusy s).outLen = s.outLen := rfl

@[simp] theorem setWriteWhileBusy_key (s : State) :
    (setWriteWhileBusy s).key = s.key := rfl

@[simp] theorem setWriteWhileBusy_inBuf (s : State) :
    (setWriteWhileBusy s).inBuf = s.inBuf := rfl

@[simp] theorem setWriteWhileBusy_outBuf (s : State) :
    (setWriteWhileBusy s).outBuf = s.outBuf := rfl

@[simp] theorem setWriteWhileBusy_phase (s : State) :
    (setWriteWhileBusy s).phase = s.phase := rfl

@[simp] theorem setWriteWhileBusy_datapath (s : State) :
    (setWriteWhileBusy s).datapath = s.datapath := rfl

@[simp] theorem setWriteWhileBusy_response (s : State) :
    (setWriteWhileBusy s).response = s.response := rfl

@[simp] theorem setWriteWhileBusy_resets (s : State) :
    (setWriteWhileBusy s).resets = s.resets := rfl

@[simp] theorem setWriteWhileBusy_draws (s : State) :
    (setWriteWhileBusy s).draws = s.draws := rfl

@[simp] theorem setWriteWhileBusy_schedule (s : State) :
    (setWriteWhileBusy s).schedule = s.schedule := rfl

/-! ## clearErr -/

@[simp] theorem clearErr_maxFrame (v : Word) (s : State) :
    (clearErr v s).maxFrame = s.maxFrame := rfl

@[simp] theorem clearErr_irqEn (v : Word) (s : State) :
    (clearErr v s).irqEn = s.irqEn := rfl

@[simp] theorem clearErr_busy (v : Word) (s : State) :
    (clearErr v s).busy = s.busy := rfl

@[simp] theorem clearErr_done (v : Word) (s : State) :
    (clearErr v s).done = s.done := rfl

@[simp] theorem clearErr_value (v : Word) (s : State) :
    (clearErr v s).value = s.value := rfl

@[simp] theorem clearErr_cause (v : Word) (s : State) :
    (clearErr v s).cause = s.cause := rfl

@[simp] theorem clearErr_illegalCmd (v : Word) (s : State) :
    (clearErr v s).illegalCmd = clearBy s.illegalCmd v 0 := rfl

@[simp] theorem clearErr_cmdWhileBusy (v : Word) (s : State) :
    (clearErr v s).cmdWhileBusy = clearBy s.cmdWhileBusy v 1 := rfl

@[simp] theorem clearErr_writeWhileBusy (v : Word) (s : State) :
    (clearErr v s).writeWhileBusy = clearBy s.writeWhileBusy v 2 := rfl

@[simp] theorem clearErr_irqDone (v : Word) (s : State) :
    (clearErr v s).irqDone = s.irqDone := rfl

@[simp] theorem clearErr_keyPresent (v : Word) (s : State) :
    (clearErr v s).keyPresent = s.keyPresent := rfl

@[simp] theorem clearErr_dataPresent (v : Word) (s : State) :
    (clearErr v s).dataPresent = s.dataPresent := rfl

@[simp] theorem clearErr_keyLen (v : Word) (s : State) :
    (clearErr v s).keyLen = s.keyLen := rfl

@[simp] theorem clearErr_dataLen (v : Word) (s : State) :
    (clearErr v s).dataLen = s.dataLen := rfl

@[simp] theorem clearErr_outLen (v : Word) (s : State) :
    (clearErr v s).outLen = s.outLen := rfl

@[simp] theorem clearErr_key (v : Word) (s : State) :
    (clearErr v s).key = s.key := rfl

@[simp] theorem clearErr_inBuf (v : Word) (s : State) :
    (clearErr v s).inBuf = s.inBuf := rfl

@[simp] theorem clearErr_outBuf (v : Word) (s : State) :
    (clearErr v s).outBuf = s.outBuf := rfl

@[simp] theorem clearErr_phase (v : Word) (s : State) :
    (clearErr v s).phase = s.phase := rfl

@[simp] theorem clearErr_datapath (v : Word) (s : State) :
    (clearErr v s).datapath = s.datapath := rfl

@[simp] theorem clearErr_response (v : Word) (s : State) :
    (clearErr v s).response = s.response := rfl

@[simp] theorem clearErr_resets (v : Word) (s : State) :
    (clearErr v s).resets = s.resets := rfl

@[simp] theorem clearErr_draws (v : Word) (s : State) :
    (clearErr v s).draws = s.draws := rfl

@[simp] theorem clearErr_schedule (v : Word) (s : State) :
    (clearErr v s).schedule = s.schedule := rfl

/-! ## clearIrq -/

@[simp] theorem clearIrq_maxFrame (v : Word) (s : State) :
    (clearIrq v s).maxFrame = s.maxFrame := rfl

@[simp] theorem clearIrq_irqEn (v : Word) (s : State) :
    (clearIrq v s).irqEn = s.irqEn := rfl

@[simp] theorem clearIrq_busy (v : Word) (s : State) :
    (clearIrq v s).busy = s.busy := rfl

@[simp] theorem clearIrq_done (v : Word) (s : State) :
    (clearIrq v s).done = s.done := rfl

@[simp] theorem clearIrq_value (v : Word) (s : State) :
    (clearIrq v s).value = s.value := rfl

@[simp] theorem clearIrq_cause (v : Word) (s : State) :
    (clearIrq v s).cause = s.cause := rfl

@[simp] theorem clearIrq_illegalCmd (v : Word) (s : State) :
    (clearIrq v s).illegalCmd = s.illegalCmd := rfl

@[simp] theorem clearIrq_cmdWhileBusy (v : Word) (s : State) :
    (clearIrq v s).cmdWhileBusy = s.cmdWhileBusy := rfl

@[simp] theorem clearIrq_writeWhileBusy (v : Word) (s : State) :
    (clearIrq v s).writeWhileBusy = s.writeWhileBusy := rfl

@[simp] theorem clearIrq_irqDone (v : Word) (s : State) :
    (clearIrq v s).irqDone = clearBy s.irqDone v 0 := rfl

@[simp] theorem clearIrq_keyPresent (v : Word) (s : State) :
    (clearIrq v s).keyPresent = s.keyPresent := rfl

@[simp] theorem clearIrq_dataPresent (v : Word) (s : State) :
    (clearIrq v s).dataPresent = s.dataPresent := rfl

@[simp] theorem clearIrq_keyLen (v : Word) (s : State) :
    (clearIrq v s).keyLen = s.keyLen := rfl

@[simp] theorem clearIrq_dataLen (v : Word) (s : State) :
    (clearIrq v s).dataLen = s.dataLen := rfl

@[simp] theorem clearIrq_outLen (v : Word) (s : State) :
    (clearIrq v s).outLen = s.outLen := rfl

@[simp] theorem clearIrq_key (v : Word) (s : State) :
    (clearIrq v s).key = s.key := rfl

@[simp] theorem clearIrq_inBuf (v : Word) (s : State) :
    (clearIrq v s).inBuf = s.inBuf := rfl

@[simp] theorem clearIrq_outBuf (v : Word) (s : State) :
    (clearIrq v s).outBuf = s.outBuf := rfl

@[simp] theorem clearIrq_phase (v : Word) (s : State) :
    (clearIrq v s).phase = s.phase := rfl

@[simp] theorem clearIrq_datapath (v : Word) (s : State) :
    (clearIrq v s).datapath = s.datapath := rfl

@[simp] theorem clearIrq_response (v : Word) (s : State) :
    (clearIrq v s).response = s.response := rfl

@[simp] theorem clearIrq_resets (v : Word) (s : State) :
    (clearIrq v s).resets = s.resets := rfl

@[simp] theorem clearIrq_draws (v : Word) (s : State) :
    (clearIrq v s).draws = s.draws := rfl

@[simp] theorem clearIrq_schedule (v : Word) (s : State) :
    (clearIrq v s).schedule = s.schedule := rfl

/-! ## writeCtrl -/

@[simp] theorem writeCtrl_maxFrame (v : Word) (s : State) :
    (writeCtrl v s).maxFrame = s.maxFrame := rfl

@[simp] theorem writeCtrl_irqEn (v : Word) (s : State) :
    (writeCtrl v s).irqEn = v.getLsbD 0 := rfl

@[simp] theorem writeCtrl_busy (v : Word) (s : State) :
    (writeCtrl v s).busy = s.busy := rfl

@[simp] theorem writeCtrl_done (v : Word) (s : State) :
    (writeCtrl v s).done = s.done := rfl

@[simp] theorem writeCtrl_value (v : Word) (s : State) :
    (writeCtrl v s).value = s.value := rfl

@[simp] theorem writeCtrl_cause (v : Word) (s : State) :
    (writeCtrl v s).cause = s.cause := rfl

@[simp] theorem writeCtrl_illegalCmd (v : Word) (s : State) :
    (writeCtrl v s).illegalCmd = s.illegalCmd := rfl

@[simp] theorem writeCtrl_cmdWhileBusy (v : Word) (s : State) :
    (writeCtrl v s).cmdWhileBusy = s.cmdWhileBusy := rfl

@[simp] theorem writeCtrl_writeWhileBusy (v : Word) (s : State) :
    (writeCtrl v s).writeWhileBusy = s.writeWhileBusy := rfl

@[simp] theorem writeCtrl_irqDone (v : Word) (s : State) :
    (writeCtrl v s).irqDone = s.irqDone := rfl

@[simp] theorem writeCtrl_keyPresent (v : Word) (s : State) :
    (writeCtrl v s).keyPresent = s.keyPresent := rfl

@[simp] theorem writeCtrl_dataPresent (v : Word) (s : State) :
    (writeCtrl v s).dataPresent = s.dataPresent := rfl

@[simp] theorem writeCtrl_keyLen (v : Word) (s : State) :
    (writeCtrl v s).keyLen = s.keyLen := rfl

@[simp] theorem writeCtrl_dataLen (v : Word) (s : State) :
    (writeCtrl v s).dataLen = s.dataLen := rfl

@[simp] theorem writeCtrl_outLen (v : Word) (s : State) :
    (writeCtrl v s).outLen = s.outLen := rfl

@[simp] theorem writeCtrl_key (v : Word) (s : State) :
    (writeCtrl v s).key = s.key := rfl

@[simp] theorem writeCtrl_inBuf (v : Word) (s : State) :
    (writeCtrl v s).inBuf = s.inBuf := rfl

@[simp] theorem writeCtrl_outBuf (v : Word) (s : State) :
    (writeCtrl v s).outBuf = s.outBuf := rfl

@[simp] theorem writeCtrl_phase (v : Word) (s : State) :
    (writeCtrl v s).phase = s.phase := rfl

@[simp] theorem writeCtrl_datapath (v : Word) (s : State) :
    (writeCtrl v s).datapath = s.datapath := rfl

@[simp] theorem writeCtrl_response (v : Word) (s : State) :
    (writeCtrl v s).response = s.response := rfl

@[simp] theorem writeCtrl_resets (v : Word) (s : State) :
    (writeCtrl v s).resets = s.resets := rfl

@[simp] theorem writeCtrl_draws (v : Word) (s : State) :
    (writeCtrl v s).draws = s.draws := rfl

@[simp] theorem writeCtrl_schedule (v : Word) (s : State) :
    (writeCtrl v s).schedule = s.schedule := rfl

/-! ## writePresent -/

@[simp] theorem writePresent_maxFrame (v : Word) (s : State) :
    (writePresent v s).maxFrame = s.maxFrame := rfl

@[simp] theorem writePresent_irqEn (v : Word) (s : State) :
    (writePresent v s).irqEn = s.irqEn := rfl

@[simp] theorem writePresent_busy (v : Word) (s : State) :
    (writePresent v s).busy = s.busy := rfl

@[simp] theorem writePresent_done (v : Word) (s : State) :
    (writePresent v s).done = s.done := rfl

@[simp] theorem writePresent_value (v : Word) (s : State) :
    (writePresent v s).value = s.value := rfl

@[simp] theorem writePresent_cause (v : Word) (s : State) :
    (writePresent v s).cause = s.cause := rfl

@[simp] theorem writePresent_illegalCmd (v : Word) (s : State) :
    (writePresent v s).illegalCmd = s.illegalCmd := rfl

@[simp] theorem writePresent_cmdWhileBusy (v : Word) (s : State) :
    (writePresent v s).cmdWhileBusy = s.cmdWhileBusy := rfl

@[simp] theorem writePresent_writeWhileBusy (v : Word) (s : State) :
    (writePresent v s).writeWhileBusy = s.writeWhileBusy := rfl

@[simp] theorem writePresent_irqDone (v : Word) (s : State) :
    (writePresent v s).irqDone = s.irqDone := rfl

@[simp] theorem writePresent_keyPresent (v : Word) (s : State) :
    (writePresent v s).keyPresent = v.getLsbD 0 := rfl

@[simp] theorem writePresent_dataPresent (v : Word) (s : State) :
    (writePresent v s).dataPresent = v.getLsbD 1 := rfl

@[simp] theorem writePresent_keyLen (v : Word) (s : State) :
    (writePresent v s).keyLen = s.keyLen := rfl

@[simp] theorem writePresent_dataLen (v : Word) (s : State) :
    (writePresent v s).dataLen = s.dataLen := rfl

@[simp] theorem writePresent_outLen (v : Word) (s : State) :
    (writePresent v s).outLen = s.outLen := rfl

@[simp] theorem writePresent_key (v : Word) (s : State) :
    (writePresent v s).key = s.key := rfl

@[simp] theorem writePresent_inBuf (v : Word) (s : State) :
    (writePresent v s).inBuf = s.inBuf := rfl

@[simp] theorem writePresent_outBuf (v : Word) (s : State) :
    (writePresent v s).outBuf = s.outBuf := rfl

@[simp] theorem writePresent_phase (v : Word) (s : State) :
    (writePresent v s).phase = s.phase := rfl

@[simp] theorem writePresent_datapath (v : Word) (s : State) :
    (writePresent v s).datapath = s.datapath := rfl

@[simp] theorem writePresent_response (v : Word) (s : State) :
    (writePresent v s).response = s.response := rfl

@[simp] theorem writePresent_resets (v : Word) (s : State) :
    (writePresent v s).resets = s.resets := rfl

@[simp] theorem writePresent_draws (v : Word) (s : State) :
    (writePresent v s).draws = s.draws := rfl

@[simp] theorem writePresent_schedule (v : Word) (s : State) :
    (writePresent v s).schedule = s.schedule := rfl

/-! ## writeKey -/

@[simp] theorem writeKey_maxFrame (j : Fin 8) (v : Word) (s : State) :
    (writeKey j v s).maxFrame = s.maxFrame := rfl

@[simp] theorem writeKey_irqEn (j : Fin 8) (v : Word) (s : State) :
    (writeKey j v s).irqEn = s.irqEn := rfl

@[simp] theorem writeKey_busy (j : Fin 8) (v : Word) (s : State) :
    (writeKey j v s).busy = s.busy := rfl

@[simp] theorem writeKey_done (j : Fin 8) (v : Word) (s : State) :
    (writeKey j v s).done = s.done := rfl

@[simp] theorem writeKey_value (j : Fin 8) (v : Word) (s : State) :
    (writeKey j v s).value = s.value := rfl

@[simp] theorem writeKey_cause (j : Fin 8) (v : Word) (s : State) :
    (writeKey j v s).cause = s.cause := rfl

@[simp] theorem writeKey_illegalCmd (j : Fin 8) (v : Word) (s : State) :
    (writeKey j v s).illegalCmd = s.illegalCmd := rfl

@[simp] theorem writeKey_cmdWhileBusy (j : Fin 8) (v : Word) (s : State) :
    (writeKey j v s).cmdWhileBusy = s.cmdWhileBusy := rfl

@[simp] theorem writeKey_writeWhileBusy (j : Fin 8) (v : Word) (s : State) :
    (writeKey j v s).writeWhileBusy = s.writeWhileBusy := rfl

@[simp] theorem writeKey_irqDone (j : Fin 8) (v : Word) (s : State) :
    (writeKey j v s).irqDone = s.irqDone := rfl

@[simp] theorem writeKey_keyPresent (j : Fin 8) (v : Word) (s : State) :
    (writeKey j v s).keyPresent = s.keyPresent := rfl

@[simp] theorem writeKey_dataPresent (j : Fin 8) (v : Word) (s : State) :
    (writeKey j v s).dataPresent = s.dataPresent := rfl

@[simp] theorem writeKey_keyLen (j : Fin 8) (v : Word) (s : State) :
    (writeKey j v s).keyLen = s.keyLen := rfl

@[simp] theorem writeKey_dataLen (j : Fin 8) (v : Word) (s : State) :
    (writeKey j v s).dataLen = s.dataLen := rfl

@[simp] theorem writeKey_outLen (j : Fin 8) (v : Word) (s : State) :
    (writeKey j v s).outLen = s.outLen := rfl

@[simp] theorem writeKey_key (j : Fin 8) (v : Word) (s : State) :
    (writeKey j v s).key = s.key.set j v := rfl

@[simp] theorem writeKey_inBuf (j : Fin 8) (v : Word) (s : State) :
    (writeKey j v s).inBuf = s.inBuf := rfl

@[simp] theorem writeKey_outBuf (j : Fin 8) (v : Word) (s : State) :
    (writeKey j v s).outBuf = s.outBuf := rfl

@[simp] theorem writeKey_phase (j : Fin 8) (v : Word) (s : State) :
    (writeKey j v s).phase = s.phase := rfl

@[simp] theorem writeKey_datapath (j : Fin 8) (v : Word) (s : State) :
    (writeKey j v s).datapath = s.datapath := rfl

@[simp] theorem writeKey_response (j : Fin 8) (v : Word) (s : State) :
    (writeKey j v s).response = s.response := rfl

@[simp] theorem writeKey_resets (j : Fin 8) (v : Word) (s : State) :
    (writeKey j v s).resets = s.resets := rfl

@[simp] theorem writeKey_draws (j : Fin 8) (v : Word) (s : State) :
    (writeKey j v s).draws = s.draws := rfl

@[simp] theorem writeKey_schedule (j : Fin 8) (v : Word) (s : State) :
    (writeKey j v s).schedule = s.schedule := rfl

/-! ## accept -/

@[simp] theorem accept_maxFrame (op : Op) (s : State) :
    (accept op s).maxFrame = s.maxFrame := rfl

@[simp] theorem accept_irqEn (op : Op) (s : State) :
    (accept op s).irqEn = s.irqEn := rfl

@[simp] theorem accept_busy (op : Op) (s : State) :
    (accept op s).busy = true := rfl

@[simp] theorem accept_done (op : Op) (s : State) :
    (accept op s).done = false := rfl

@[simp] theorem accept_value (op : Op) (s : State) :
    (accept op s).value = false := rfl

@[simp] theorem accept_cause (op : Op) (s : State) :
    (accept op s).cause = 0 := rfl

@[simp] theorem accept_illegalCmd (op : Op) (s : State) :
    (accept op s).illegalCmd = s.illegalCmd := rfl

@[simp] theorem accept_cmdWhileBusy (op : Op) (s : State) :
    (accept op s).cmdWhileBusy = s.cmdWhileBusy := rfl

@[simp] theorem accept_writeWhileBusy (op : Op) (s : State) :
    (accept op s).writeWhileBusy = s.writeWhileBusy := rfl

@[simp] theorem accept_irqDone (op : Op) (s : State) :
    (accept op s).irqDone = s.irqDone := rfl

@[simp] theorem accept_keyPresent (op : Op) (s : State) :
    (accept op s).keyPresent = s.keyPresent := rfl

@[simp] theorem accept_dataPresent (op : Op) (s : State) :
    (accept op s).dataPresent = s.dataPresent := rfl

@[simp] theorem accept_keyLen (op : Op) (s : State) :
    (accept op s).keyLen = s.keyLen := rfl

@[simp] theorem accept_dataLen (op : Op) (s : State) :
    (accept op s).dataLen = s.dataLen := rfl

@[simp] theorem accept_outLen (op : Op) (s : State) :
    (accept op s).outLen = 0 := rfl

@[simp] theorem accept_key (op : Op) (s : State) :
    (accept op s).key = s.key := rfl

@[simp] theorem accept_inBuf (op : Op) (s : State) :
    (accept op s).inBuf = s.inBuf := rfl

@[simp] theorem accept_outBuf (op : Op) (s : State) :
    (accept op s).outBuf = s.outBuf := rfl

@[simp] theorem accept_phase (op : Op) (s : State) :
    (accept op s).phase = .run op := rfl

@[simp] theorem accept_datapath (op : Op) (s : State) :
    (accept op s).datapath = s.datapath := rfl

@[simp] theorem accept_response (op : Op) (s : State) :
    (accept op s).response = s.response := rfl

@[simp] theorem accept_resets (op : Op) (s : State) :
    (accept op s).resets = s.resets := rfl

@[simp] theorem accept_draws (op : Op) (s : State) :
    (accept op s).draws = s.draws := rfl

@[simp] theorem accept_schedule (op : Op) (s : State) :
    (accept op s).schedule = s.schedule := rfl

/-! ## zeroize -/

@[simp] theorem zeroize_maxFrame (s : State) :
    (zeroize s).maxFrame = s.maxFrame := rfl

@[simp] theorem zeroize_irqEn (s : State) :
    (zeroize s).irqEn = s.irqEn := rfl

@[simp] theorem zeroize_busy (s : State) :
    (zeroize s).busy = s.busy := rfl

@[simp] theorem zeroize_done (s : State) :
    (zeroize s).done = s.done := rfl

@[simp] theorem zeroize_value (s : State) :
    (zeroize s).value = s.value := rfl

@[simp] theorem zeroize_cause (s : State) :
    (zeroize s).cause = s.cause := rfl

@[simp] theorem zeroize_illegalCmd (s : State) :
    (zeroize s).illegalCmd = s.illegalCmd := rfl

@[simp] theorem zeroize_cmdWhileBusy (s : State) :
    (zeroize s).cmdWhileBusy = s.cmdWhileBusy := rfl

@[simp] theorem zeroize_writeWhileBusy (s : State) :
    (zeroize s).writeWhileBusy = s.writeWhileBusy := rfl

@[simp] theorem zeroize_irqDone (s : State) :
    (zeroize s).irqDone = s.irqDone := rfl

@[simp] theorem zeroize_keyPresent (s : State) :
    (zeroize s).keyPresent = false := rfl

@[simp] theorem zeroize_dataPresent (s : State) :
    (zeroize s).dataPresent = false := rfl

@[simp] theorem zeroize_keyLen (s : State) :
    (zeroize s).keyLen = 0 := rfl

@[simp] theorem zeroize_dataLen (s : State) :
    (zeroize s).dataLen = s.dataLen := rfl

@[simp] theorem zeroize_outLen (s : State) :
    (zeroize s).outLen = s.outLen := rfl

@[simp] theorem zeroize_key (s : State) :
    (zeroize s).key = Vector.replicate 8 0 := rfl

@[simp] theorem zeroize_inBuf (s : State) :
    (zeroize s).inBuf = s.inBuf := rfl

@[simp] theorem zeroize_outBuf (s : State) :
    (zeroize s).outBuf = s.outBuf := rfl

@[simp] theorem zeroize_phase (s : State) :
    (zeroize s).phase = s.phase := rfl

@[simp] theorem zeroize_datapath (s : State) :
    (zeroize s).datapath = Datapath.zero := rfl

@[simp] theorem zeroize_response (s : State) :
    (zeroize s).response = s.response := rfl

@[simp] theorem zeroize_resets (s : State) :
    (zeroize s).resets = s.resets := rfl

@[simp] theorem zeroize_draws (s : State) :
    (zeroize s).draws = s.draws := rfl

@[simp] theorem zeroize_schedule (s : State) :
    (zeroize s).schedule = s.schedule := rfl

/-! ## publish_value -/

@[simp] theorem publish_value_maxFrame (b : List Byte) (s : State) :
    (publish (.value b) s).maxFrame = s.maxFrame := rfl

@[simp] theorem publish_value_irqEn (b : List Byte) (s : State) :
    (publish (.value b) s).irqEn = s.irqEn := rfl

@[simp] theorem publish_value_busy (b : List Byte) (s : State) :
    (publish (.value b) s).busy = s.busy := rfl

@[simp] theorem publish_value_done (b : List Byte) (s : State) :
    (publish (.value b) s).done = s.done := rfl

@[simp] theorem publish_value_value (b : List Byte) (s : State) :
    (publish (.value b) s).value = true := rfl

@[simp] theorem publish_value_cause (b : List Byte) (s : State) :
    (publish (.value b) s).cause = 0 := rfl

@[simp] theorem publish_value_illegalCmd (b : List Byte) (s : State) :
    (publish (.value b) s).illegalCmd = s.illegalCmd := rfl

@[simp] theorem publish_value_cmdWhileBusy (b : List Byte) (s : State) :
    (publish (.value b) s).cmdWhileBusy = s.cmdWhileBusy := rfl

@[simp] theorem publish_value_writeWhileBusy (b : List Byte) (s : State) :
    (publish (.value b) s).writeWhileBusy = s.writeWhileBusy := rfl

@[simp] theorem publish_value_irqDone (b : List Byte) (s : State) :
    (publish (.value b) s).irqDone = s.irqDone := rfl

@[simp] theorem publish_value_keyPresent (b : List Byte) (s : State) :
    (publish (.value b) s).keyPresent = s.keyPresent := rfl

@[simp] theorem publish_value_dataPresent (b : List Byte) (s : State) :
    (publish (.value b) s).dataPresent = s.dataPresent := rfl

@[simp] theorem publish_value_keyLen (b : List Byte) (s : State) :
    (publish (.value b) s).keyLen = s.keyLen := rfl

@[simp] theorem publish_value_dataLen (b : List Byte) (s : State) :
    (publish (.value b) s).dataLen = s.dataLen := rfl

@[simp] theorem publish_value_outLen (b : List Byte) (s : State) :
    (publish (.value b) s).outLen = BitVec.ofNat 32 b.length := rfl

@[simp] theorem publish_value_key (b : List Byte) (s : State) :
    (publish (.value b) s).key = s.key := rfl

@[simp] theorem publish_value_inBuf (b : List Byte) (s : State) :
    (publish (.value b) s).inBuf = s.inBuf := rfl

@[simp] theorem publish_value_outBuf (b : List Byte) (s : State) :
    (publish (.value b) s).outBuf = Memory.ofBytes .output 0 b := rfl

@[simp] theorem publish_value_phase (b : List Byte) (s : State) :
    (publish (.value b) s).phase = s.phase := rfl

@[simp] theorem publish_value_datapath (b : List Byte) (s : State) :
    (publish (.value b) s).datapath = s.datapath := rfl

@[simp] theorem publish_value_response (b : List Byte) (s : State) :
    (publish (.value b) s).response = s.response := rfl

@[simp] theorem publish_value_resets (b : List Byte) (s : State) :
    (publish (.value b) s).resets = s.resets := rfl

@[simp] theorem publish_value_draws (b : List Byte) (s : State) :
    (publish (.value b) s).draws = s.draws := rfl

@[simp] theorem publish_value_schedule (b : List Byte) (s : State) :
    (publish (.value b) s).schedule = s.schedule := rfl

/-! ## publish_absent -/

@[simp] theorem publish_absent_maxFrame (c : Cause) (s : State) :
    (publish (.absent c) s).maxFrame = s.maxFrame := rfl

@[simp] theorem publish_absent_irqEn (c : Cause) (s : State) :
    (publish (.absent c) s).irqEn = s.irqEn := rfl

@[simp] theorem publish_absent_busy (c : Cause) (s : State) :
    (publish (.absent c) s).busy = s.busy := rfl

@[simp] theorem publish_absent_done (c : Cause) (s : State) :
    (publish (.absent c) s).done = s.done := rfl

@[simp] theorem publish_absent_value (c : Cause) (s : State) :
    (publish (.absent c) s).value = false := rfl

@[simp] theorem publish_absent_cause (c : Cause) (s : State) :
    (publish (.absent c) s).cause = causeCode c := rfl

@[simp] theorem publish_absent_illegalCmd (c : Cause) (s : State) :
    (publish (.absent c) s).illegalCmd = s.illegalCmd := rfl

@[simp] theorem publish_absent_cmdWhileBusy (c : Cause) (s : State) :
    (publish (.absent c) s).cmdWhileBusy = s.cmdWhileBusy := rfl

@[simp] theorem publish_absent_writeWhileBusy (c : Cause) (s : State) :
    (publish (.absent c) s).writeWhileBusy = s.writeWhileBusy := rfl

@[simp] theorem publish_absent_irqDone (c : Cause) (s : State) :
    (publish (.absent c) s).irqDone = s.irqDone := rfl

@[simp] theorem publish_absent_keyPresent (c : Cause) (s : State) :
    (publish (.absent c) s).keyPresent = s.keyPresent := rfl

@[simp] theorem publish_absent_dataPresent (c : Cause) (s : State) :
    (publish (.absent c) s).dataPresent = s.dataPresent := rfl

@[simp] theorem publish_absent_keyLen (c : Cause) (s : State) :
    (publish (.absent c) s).keyLen = s.keyLen := rfl

@[simp] theorem publish_absent_dataLen (c : Cause) (s : State) :
    (publish (.absent c) s).dataLen = s.dataLen := rfl

@[simp] theorem publish_absent_outLen (c : Cause) (s : State) :
    (publish (.absent c) s).outLen = 0 := rfl

@[simp] theorem publish_absent_key (c : Cause) (s : State) :
    (publish (.absent c) s).key = s.key := rfl

@[simp] theorem publish_absent_inBuf (c : Cause) (s : State) :
    (publish (.absent c) s).inBuf = s.inBuf := rfl

@[simp] theorem publish_absent_outBuf (c : Cause) (s : State) :
    (publish (.absent c) s).outBuf = [] := rfl

@[simp] theorem publish_absent_phase (c : Cause) (s : State) :
    (publish (.absent c) s).phase = s.phase := rfl

@[simp] theorem publish_absent_datapath (c : Cause) (s : State) :
    (publish (.absent c) s).datapath = s.datapath := rfl

@[simp] theorem publish_absent_response (c : Cause) (s : State) :
    (publish (.absent c) s).response = s.response := rfl

@[simp] theorem publish_absent_resets (c : Cause) (s : State) :
    (publish (.absent c) s).resets = s.resets := rfl

@[simp] theorem publish_absent_draws (c : Cause) (s : State) :
    (publish (.absent c) s).draws = s.draws := rfl

@[simp] theorem publish_absent_schedule (c : Cause) (s : State) :
    (publish (.absent c) s).schedule = s.schedule := rfl

/-! ## resetEvent -/

@[simp] theorem resetEvent_maxFrame (s : State) :
    (resetEvent s).maxFrame = s.maxFrame := rfl

@[simp] theorem resetEvent_irqEn (s : State) :
    (resetEvent s).irqEn = State.reset.irqEn := rfl

@[simp] theorem resetEvent_busy (s : State) :
    (resetEvent s).busy = State.reset.busy := rfl

@[simp] theorem resetEvent_done (s : State) :
    (resetEvent s).done = State.reset.done := rfl

@[simp] theorem resetEvent_value (s : State) :
    (resetEvent s).value = State.reset.value := rfl

@[simp] theorem resetEvent_cause (s : State) :
    (resetEvent s).cause = State.reset.cause := rfl

@[simp] theorem resetEvent_illegalCmd (s : State) :
    (resetEvent s).illegalCmd = State.reset.illegalCmd := rfl

@[simp] theorem resetEvent_cmdWhileBusy (s : State) :
    (resetEvent s).cmdWhileBusy = State.reset.cmdWhileBusy := rfl

@[simp] theorem resetEvent_writeWhileBusy (s : State) :
    (resetEvent s).writeWhileBusy = State.reset.writeWhileBusy := rfl

@[simp] theorem resetEvent_irqDone (s : State) :
    (resetEvent s).irqDone = State.reset.irqDone := rfl

@[simp] theorem resetEvent_keyPresent (s : State) :
    (resetEvent s).keyPresent = State.reset.keyPresent := rfl

@[simp] theorem resetEvent_dataPresent (s : State) :
    (resetEvent s).dataPresent = State.reset.dataPresent := rfl

@[simp] theorem resetEvent_keyLen (s : State) :
    (resetEvent s).keyLen = State.reset.keyLen := rfl

@[simp] theorem resetEvent_dataLen (s : State) :
    (resetEvent s).dataLen = State.reset.dataLen := rfl

@[simp] theorem resetEvent_outLen (s : State) :
    (resetEvent s).outLen = State.reset.outLen := rfl

@[simp] theorem resetEvent_key (s : State) :
    (resetEvent s).key = State.reset.key := rfl

@[simp] theorem resetEvent_inBuf (s : State) :
    (resetEvent s).inBuf = State.reset.inBuf := rfl

@[simp] theorem resetEvent_outBuf (s : State) :
    (resetEvent s).outBuf = State.reset.outBuf := rfl

@[simp] theorem resetEvent_phase (s : State) :
    (resetEvent s).phase = State.reset.phase := rfl

@[simp] theorem resetEvent_datapath (s : State) :
    (resetEvent s).datapath = State.reset.datapath := rfl

@[simp] theorem resetEvent_response (s : State) :
    (resetEvent s).response = State.reset.response := rfl

@[simp] theorem resetEvent_resets (s : State) :
    (resetEvent s).resets = s.resets + 1 := rfl

@[simp] theorem resetEvent_draws (s : State) :
    (resetEvent s).draws = s.draws := rfl

@[simp] theorem resetEvent_schedule (s : State) :
    (resetEvent s).schedule = s.schedule := rfl

/-! ## complete: the fields the result does not decide -/

@[simp] theorem complete_maxFrame (res : Result) (s : State) :
    (complete res s).maxFrame = s.maxFrame := by
  cases res <;> rfl

@[simp] theorem complete_irqEn (res : Result) (s : State) :
    (complete res s).irqEn = s.irqEn := by
  cases res <;> rfl

@[simp] theorem complete_busy (res : Result) (s : State) :
    (complete res s).busy = false := by
  cases res <;> rfl

@[simp] theorem complete_done (res : Result) (s : State) :
    (complete res s).done = true := by
  cases res <;> rfl

@[simp] theorem complete_illegalCmd (res : Result) (s : State) :
    (complete res s).illegalCmd = s.illegalCmd := by
  cases res <;> rfl

@[simp] theorem complete_cmdWhileBusy (res : Result) (s : State) :
    (complete res s).cmdWhileBusy = s.cmdWhileBusy := by
  cases res <;> rfl

@[simp] theorem complete_writeWhileBusy (res : Result) (s : State) :
    (complete res s).writeWhileBusy = s.writeWhileBusy := by
  cases res <;> rfl

@[simp] theorem complete_irqDone (res : Result) (s : State) :
    (complete res s).irqDone = true := by
  cases res <;> rfl

@[simp] theorem complete_keyPresent (res : Result) (s : State) :
    (complete res s).keyPresent = false := by
  cases res <;> rfl

@[simp] theorem complete_dataPresent (res : Result) (s : State) :
    (complete res s).dataPresent = false := by
  cases res <;> rfl

@[simp] theorem complete_keyLen (res : Result) (s : State) :
    (complete res s).keyLen = 0 := by
  cases res <;> rfl

@[simp] theorem complete_dataLen (res : Result) (s : State) :
    (complete res s).dataLen = s.dataLen := by
  cases res <;> rfl

@[simp] theorem complete_key (res : Result) (s : State) :
    (complete res s).key = Vector.replicate 8 0 := by
  cases res <;> rfl

@[simp] theorem complete_inBuf (res : Result) (s : State) :
    (complete res s).inBuf = s.inBuf := by
  cases res <;> rfl

@[simp] theorem complete_phase (res : Result) (s : State) :
    (complete res s).phase = .idle := by
  cases res <;> rfl

@[simp] theorem complete_datapath (res : Result) (s : State) :
    (complete res s).datapath = Datapath.zero := by
  cases res <;> rfl

@[simp] theorem complete_response (res : Result) (s : State) :
    (complete res s).response = s.response := by
  cases res <;> rfl

@[simp] theorem complete_resets (res : Result) (s : State) :
    (complete res s).resets = s.resets := by
  cases res <;> rfl

@[simp] theorem complete_draws (res : Result) (s : State) :
    (complete res s).draws = s.draws := by
  cases res <;> rfl

@[simp] theorem complete_schedule (res : Result) (s : State) :
    (complete res s).schedule = s.schedule := by
  cases res <;> rfl

/-! ## complete: the completion record -/

@[simp] theorem complete_value_outBuf (b : List Byte) (s : State) :
    (complete (.value b) s).outBuf = Memory.ofBytes .output 0 b := rfl

@[simp] theorem complete_absent_outBuf (c : Cause) (s : State) :
    (complete (.absent c) s).outBuf = [] := rfl

@[simp] theorem complete_value_outLen (b : List Byte) (s : State) :
    (complete (.value b) s).outLen = BitVec.ofNat 32 b.length := rfl

@[simp] theorem complete_absent_outLen (c : Cause) (s : State) :
    (complete (.absent c) s).outLen = 0 := rfl

@[simp] theorem complete_value_value (b : List Byte) (s : State) :
    (complete (.value b) s).value = true := rfl

@[simp] theorem complete_absent_value (c : Cause) (s : State) :
    (complete (.absent c) s).value = false := rfl

@[simp] theorem complete_value_cause (b : List Byte) (s : State) :
    (complete (.value b) s).cause = 0 := rfl

@[simp] theorem complete_absent_cause (c : Cause) (s : State) :
    (complete (.absent c) s).cause = causeCode c := rfl

/-! ## settle: only the hidden datapath and the model's own draw counter -/

@[simp] theorem settle_maxFrame (s : State) : (settle s).maxFrame = s.maxFrame := by
  unfold settle; split <;> rfl

@[simp] theorem settle_irqEn (s : State) : (settle s).irqEn = s.irqEn := by
  unfold settle; split <;> rfl

@[simp] theorem settle_busy (s : State) : (settle s).busy = s.busy := by
  unfold settle; split <;> rfl

@[simp] theorem settle_done (s : State) : (settle s).done = s.done := by
  unfold settle; split <;> rfl

@[simp] theorem settle_value (s : State) : (settle s).value = s.value := by
  unfold settle; split <;> rfl

@[simp] theorem settle_cause (s : State) : (settle s).cause = s.cause := by
  unfold settle; split <;> rfl

@[simp] theorem settle_illegalCmd (s : State) : (settle s).illegalCmd = s.illegalCmd := by
  unfold settle; split <;> rfl

@[simp] theorem settle_cmdWhileBusy (s : State) : (settle s).cmdWhileBusy = s.cmdWhileBusy := by
  unfold settle; split <;> rfl

@[simp] theorem settle_writeWhileBusy (s : State) : (settle s).writeWhileBusy = s.writeWhileBusy := by
  unfold settle; split <;> rfl

@[simp] theorem settle_irqDone (s : State) : (settle s).irqDone = s.irqDone := by
  unfold settle; split <;> rfl

@[simp] theorem settle_keyPresent (s : State) : (settle s).keyPresent = s.keyPresent := by
  unfold settle; split <;> rfl

@[simp] theorem settle_dataPresent (s : State) : (settle s).dataPresent = s.dataPresent := by
  unfold settle; split <;> rfl

@[simp] theorem settle_keyLen (s : State) : (settle s).keyLen = s.keyLen := by
  unfold settle; split <;> rfl

@[simp] theorem settle_dataLen (s : State) : (settle s).dataLen = s.dataLen := by
  unfold settle; split <;> rfl

@[simp] theorem settle_outLen (s : State) : (settle s).outLen = s.outLen := by
  unfold settle; split <;> rfl

@[simp] theorem settle_key (s : State) : (settle s).key = s.key := by
  unfold settle; split <;> rfl

@[simp] theorem settle_inBuf (s : State) : (settle s).inBuf = s.inBuf := by
  unfold settle; split <;> rfl

@[simp] theorem settle_outBuf (s : State) : (settle s).outBuf = s.outBuf := by
  unfold settle; split <;> rfl

@[simp] theorem settle_phase (s : State) : (settle s).phase = s.phase := by
  unfold settle; split <;> rfl

@[simp] theorem settle_response (s : State) : (settle s).response = s.response := by
  unfold settle; split <;> rfl

@[simp] theorem settle_resets (s : State) : (settle s).resets = s.resets := by
  unfold settle; split <;> rfl

@[simp] theorem settle_schedule (s : State) : (settle s).schedule = s.schedule := by
  unfold settle; split <;> rfl

end Sys2Proof.Machine
end

