-- ==== Sys2Proof/Laws/Exec.lean ====
section
/-! SUPPORT. What an instruction and a step can do, said once: the address decode by region, the
effects of a command and of a write, every instruction's next state, and the inversion of a step. -/

namespace Sys2Proof.Machine

/-! ## The address decode -/

theorem Width.bytes_pos (n : Width) : 1 ≤ n.bytes ∧ n.bytes ≤ 4 := by cases n <;> decide

/-- Where an access reaches a register, it is a whole aligned word (R82). -/
theorem target_eq_reg {m off : Nat} {n : Width} {r : RegName} (h : target m off n = some (.reg r)) :
    n = .four ∧ off < 0x10000 ∧ off % 4 = 0 ∧ regAt off = some r := by
  unfold target at h
  split at h
  · split at h
    · rename_i h1 h2
      cases hr : regAt off <;> simp_all
    · cases h
  · split at h
    · split at h <;> cases h
    · split at h
      · split at h <;> cases h
      · cases h

/-- Where an access reaches IN_BUF, it is aligned and inside the buffer (R83). -/
theorem target_eq_input {m off i : Nat} {n : Width} (h : target m off n = some (.input i)) :
    off = 0x10000 + i ∧ off % n.bytes = 0 ∧ i + n.bytes ≤ m ∧ i < 0x10000 := by
  unfold target at h
  split at h
  · split at h
    · cases hr : regAt off <;> simp_all
    · cases h
  · split at h
    · split at h
      · have := Target.input.inj (Option.some.inj h); omega
      · cases h
    · split at h
      · split at h <;> cases h
      · cases h

/-- Where an access reaches OUT_BUF, it is aligned and inside the buffer (R83). -/
theorem target_eq_output {m off i : Nat} {n : Width} (h : target m off n = some (.output i)) :
    off = 0x20000 + i ∧ off % n.bytes = 0 ∧ i + n.bytes ≤ m + 16 ∧ i < 0x10000 := by
  unfold target at h
  split at h
  · split at h
    · cases hr : regAt off <;> simp_all
    · cases h
  · split at h
    · split at h <;> cases h
    · split at h
      · split at h
        · have := Target.output.inj (Option.some.inj h); omega
        · cases h
      · cases h

theorem target_input {m i : Nat} {n : Width} (hi : i < 0x10000) (ha : (0x10000 + i) % n.bytes = 0)
    (hm : i + n.bytes ≤ m) : target m (0x10000 + i) n = some (.input i) := by
  unfold target
  rw [if_neg (by omega), if_pos (by omega), if_pos ⟨ha, by omega⟩, Nat.add_sub_cancel_left]

theorem target_output {m i : Nat} {n : Width} (hi : i < 0x10000) (ha : (0x20000 + i) % n.bytes = 0)
    (hm : i + n.bytes ≤ m + 16) : target m (0x20000 + i) n = some (.output i) := by
  unfold target
  rw [if_neg (by omega), if_neg (by omega), if_pos (by omega), if_pos ⟨ha, by omega⟩,
    Nat.add_sub_cancel_left]

/-! ## The effect of a command, a write and a transaction -/

/-- A command presented to the sequencer does one of four things (R231). -/
theorem dispatch_cases (cw : Word) (s : State) :
    (s.busy = true ∧ dispatch cw s = setCmdWhileBusy s) ∨
    (s.busy = false ∧ (dispatch cw s = s ∨ dispatch cw s = accept .encrypt s ∨
      dispatch cw s = accept .decrypt s ∨ dispatch cw s = setIllegalCmd s)) := by
  unfold dispatch presentCommand
  cases s.busy
  · right
    refine ⟨rfl, ?_⟩
    simp only [Bool.false_eq_true, if_false]
    split
    · exact .inl rfl
    · split
      · exact .inr (.inl rfl)
      · split
        · exact .inr (.inr (.inl rfl))
        · exact .inr (.inr (.inr rfl))
  · exact .inl ⟨rfl, rfl⟩

/-- What a host transaction or a command can do to the state before its response is recorded. -/
inductive Effect : State → State → Prop where
  /-- Nothing: a read, a bus error, a NOP, a write to read-only state. -/
  | nothing (s : State) : Effect s s
  /-- A write of CTRL. -/
  | ctrl (s : State) (v : Word) : Effect s (writeCtrl v s)
  /-- A write-1-to-clear of ERR. -/
  | err (s : State) (v : Word) : Effect s (clearErr v s)
  /-- A write-1-to-clear of IRQ_STATUS. -/
  | irq (s : State) (v : Word) : Effect s (clearIrq v s)
  /-- A command word while busy. -/
  | cmdBusy (s : State) (h : s.busy = true) : Effect s (setCmdWhileBusy s)
  /-- An illegal command word while idle. -/
  | illegal (s : State) (h : s.busy = false) : Effect s (setIllegalCmd s)
  /-- The acceptance of a command. -/
  | accepted (s : State) (op : Op) (h : s.busy = false) : Effect s (accept op s)
  /-- An input-side write while busy. -/
  | writeBusy (s : State) (h : s.busy = true) : Effect s (setWriteWhileBusy s)
  /-- A write of PRESENT while idle. -/
  | present (s : State) (v : Word) (h : s.busy = false) : Effect s (writePresent v s)
  /-- A write of KEY_LEN while idle. -/
  | keyLen (s : State) (v : Word) (h : s.busy = false) : Effect s { s with keyLen := v }
  /-- A write of DATA_LEN while idle. -/
  | dataLen (s : State) (v : Word) (h : s.busy = false) : Effect s { s with dataLen := v }
  /-- A write of a key word while idle. -/
  | key (s : State) (j : Fin 8) (v : Word) (h : s.busy = false) : Effect s (writeKey j v s)
  /-- A store of `n` bytes inside IN_BUF while idle. -/
  | store (s : State) (v : Word) (i n : Nat) (h : s.busy = false) (hn : i + n ≤ s.maxFrame) :
    Effect s { s with inBuf := storeIn v i n s.inBuf }

theorem effect_dispatch (cw : Word) (s : State) : Effect s (dispatch cw s) := by
  rcases dispatch_cases cw s with ⟨hb, h⟩ | ⟨hb, h | h | h | h⟩ <;> rw [h]
  · exact .cmdBusy s hb
  · exact .nothing s
  · exact .accepted s _ hb
  · exact .accepted s _ hb
  · exact .illegal s hb

theorem effect_presentCommand {f : State → State} {s : State} (hf : s.busy = false → Effect s (f s)) :
    Effect s (presentCommand f s) := by
  unfold presentCommand
  cases hb : s.busy
  · exact hf hb
  · exact .cmdBusy s hb

theorem effect_inputWrite {f : State → State} {s : State} (hf : s.busy = false → Effect s (f s)) :
    Effect s (inputWrite f s) := by
  unfold inputWrite
  cases hb : s.busy
  · exact hf hb
  · exact .writeBusy s hb

/-- A write at a legal target has one of the effects (R283). -/
theorem effect_writeTarget {m off : Nat} {n : Width} {v : Word} {s : State} {t : Target}
    (hm : m = s.maxFrame) (h : target m off n = some t) : Effect s (writeTarget n v s t) := by
  cases t with
  | reg r =>
    cases r <;> simp only [writeTarget, writeReg]
    case id => exact .nothing s
    case caps => exact .nothing s
    case ctrl => exact .ctrl s v
    case cmd => exact effect_dispatch v s
    case status => exact .nothing s
    case err => exact .err s v
    case irqStatus => exact .irq s v
    case present => exact effect_inputWrite fun hb => .present s v hb
    case keyLen => exact effect_inputWrite fun hb => .keyLen s v hb
    case dataLen => exact effect_inputWrite fun hb => .dataLen s v hb
    case outLen => exact .nothing s
    case key j => exact effect_inputWrite fun hb => .key s j v hb
  | input i =>
    have hi := (target_eq_input h).2.2.1
    simp only [writeTarget]
    exact effect_inputWrite fun hb => .store s v i _ hb (hm ▸ hi)
  | output i => exact .nothing s

/-- Every instruction completes: some effect, then one response (R280, R314). -/
theorem exec_effect (i : Instr) (s : State) :
    ∃ t r, Effect s t ∧ exec i s = .next (respond r t) := by
  have rd : ∀ n off, ∃ t r, Effect s t ∧ hostRead n off s = respond r t := fun n off => by
    unfold hostRead
    split
    · exact ⟨s, _, .nothing s, rfl⟩
    · exact ⟨s, _, .nothing s, rfl⟩
  have wr : ∀ n off v, ∃ t r, Effect s t ∧ hostWrite n off v s = respond r t := fun n off v => by
    unfold hostWrite
    split
    · exact ⟨s, _, .nothing s, rfl⟩
    · exact ⟨_, _, effect_writeTarget rfl ‹_›, rfl⟩
  cases i with
  | nop => exact ⟨_, _, effect_presentCommand fun _ => .nothing s, rfl⟩
  | encrypt => exact ⟨_, _, effect_presentCommand fun hb => .accepted s .encrypt hb, rfl⟩
  | decrypt => exact ⟨_, _, effect_presentCommand fun hb => .accepted s .decrypt hb, rfl⟩
  | illegal op rsvd => exact ⟨_, _, effect_presentCommand fun hb => .illegal s hb, rfl⟩
  | rd8 off => obtain ⟨t, r, h, e⟩ := rd .one off; exact ⟨t, r, h, congrArg _ e⟩
  | rd16 off => obtain ⟨t, r, h, e⟩ := rd .two off; exact ⟨t, r, h, congrArg _ e⟩
  | rd32 off => obtain ⟨t, r, h, e⟩ := rd .four off; exact ⟨t, r, h, congrArg _ e⟩
  | wr8 off d => obtain ⟨t, r, h, e⟩ := wr .one off (d.setWidth 32); exact ⟨t, r, h, congrArg _ e⟩
  | wr16 off d => obtain ⟨t, r, h, e⟩ := wr .two off (d.setWidth 32); exact ⟨t, r, h, congrArg _ e⟩
  | wr32 off d => obtain ⟨t, r, h, e⟩ := wr .four off d; exact ⟨t, r, h, congrArg _ e⟩

/-! ## What a step can do -/

/-- The next state of a step is one of three: the engine's turn, a reset, or an effect with at most
one response, each on the state whose schedule has lost its first event. -/
theorem step_cases {s t : State} (h : step s = .next t) :
    (t = settle (engineStep { s with schedule := s.schedule.tail })) ∨
    (t = resetEvent { s with schedule := s.schedule.tail }) ∨
    (∃ u, Effect { s with schedule := s.schedule.tail } u ∧
      (t = settle u ∨ ∃ r, t = settle (respond r u))) := by
  unfold step nextStep at h
  have ex : ∀ (i : Instr) (s' : State), mapNext settle (exec i s') = .next t →
      ∃ u, Effect s' u ∧ (t = settle u ∨ ∃ r, t = settle (respond r u)) := fun i s' h => by
    obtain ⟨u, r, hu, e⟩ := exec_effect i s'
    rw [e] at h
    cases h
    exact ⟨u, hu, .inr ⟨r, rfl⟩⟩
  split at h
  · rename_i hs
    cases h
    left
    rw [hs]; simp only [List.tail_nil]; rw [← hs]
  · rename_i e rest hs
    rw [hs]
    cases e with
    | host bytes =>
      simp only [runEvent, runBytes] at h
      split at h
      · exact .inr (.inr (ex _ _ h))
      · cases h
    | bus w n a d =>
      simp only [runEvent, runBus] at h
      split at h
      · exact .inr (.inr (ex _ _ h))
      · cases h
        exact .inr (.inr ⟨_, .nothing _, .inl rfl⟩)
    | engine =>
      cases h
      exact .inl rfl
    | reset =>
      cases h
      exact .inr (.inl rfl)

/-- The engine's turn: nothing while idle, the completion of the running command otherwise (R250). -/
theorem engineStep_cases (s : State) :
    (s.phase = .idle ∧ engineStep s = s) ∨
    (∃ op, s.phase = .run op ∧ engineStep s = complete (commandResult op s) s) := by
  unfold engineStep
  split
  · exact .inl ⟨‹_›, rfl⟩
  · exact .inr ⟨_, ‹_›, rfl⟩

/-! ## The hidden datapath -/

theorem Datapath.zero_legal (blocks : Nat) : Datapath.Legal blocks Datapath.zero :=
  ⟨by decide, .inl rfl, Nat.le_refl _, by decide, fun h => absurd rfl h⟩

/-- A free value of the datapath keeps the spec's limits (R54, R55). -/
theorem freeDatapath_legal (n blocks : Nat) : Datapath.Legal blocks (freeDatapath n blocks) := by
  unfold freeDatapath
  split
  · assumption
  · exact Datapath.zero_legal blocks

end Sys2Proof.Machine
end

