-- ==== Sys2Proof/Laws/PerInstr.lean ====
section
/-! SUPPORT. What is proved of every instruction as syntax, one lemma per constructor: a command is
one 32-bit word and a transaction one 64-bit word (R115, R117). -/

namespace Sys2Proof.Laws.EncodedLength

/-- The encoding of a command has four bytes and that of a transaction eight. -/
def Statement (i : Instr) : Prop := (encode i).length = if i.isCommand then 4 else 8

theorem nop : Statement .nop := rfl
theorem encrypt : Statement .encrypt := rfl
theorem decrypt : Statement .decrypt := rfl
theorem illegal (op : BitVec 4) (rsvd : BitVec 28) : Statement (.illegal op rsvd) := rfl
theorem rd8 (off : Offset) : Statement (.rd8 off) := rfl
theorem rd16 (off : Offset) : Statement (.rd16 off) := rfl
theorem rd32 (off : Offset) : Statement (.rd32 off) := rfl
theorem wr8 (off : Offset) (d : BitVec 8) : Statement (.wr8 off d) := rfl
theorem wr16 (off : Offset) (d : BitVec 16) : Statement (.wr16 off d) := rfl
theorem wr32 (off : Offset) (d : BitVec 32) : Statement (.wr32 off d) := rfl

end Sys2Proof.Laws.EncodedLength
end

