-- ==== Sys2Proof/Laws/Transfers.lean ====
section
/-! SUPPORT. What a single transaction at a known target does, and a sequence of instructions cut in
two; for the statements about registers, buffers and pseudo-operations. -/

namespace Sys2Proof.Machine

/-- A legal aperture offset as an offset. -/
theorem offset_toNat {a : Nat} (h : a < 0x40000) : (BitVec.ofNat 18 a).toNat = a := by
  rw [BitVec.toNat_ofNat, Nat.mod_eq_of_lt h]

/-- A whole aligned word of the register region reaches the register there (R82, R84). -/
theorem target_reg {m off : Nat} {r : RegName} (h : off < 0x10000) (ha : off % 4 = 0) (hr : regAt off = some r) :
    target m off .four = some (.reg r) := by
  simp only [target, h, ha, hr, if_true, and_self, Option.map_some]

/-- A 4-byte write of a register answers the state after it, with response OK (R283, R298). -/
theorem exec_wr32_reg {s : State} {off : Nat} {v : Word} {r : RegName} (h : off < 0x10000) (ha : off % 4 = 0)
    (hr : regAt off = some r) :
    exec (.wr32 (BitVec.ofNat 18 off) v) s = .next (respond .ok (writeReg v r s)) := by
  simp only [exec, execWr32, hostWrite, offset_toNat (show off < 0x40000 by omega), target_reg h ha hr, writeTarget]

/-- A 4-byte read of a register answers its word (R282, R295). -/
theorem exec_rd32_reg {s : State} {off : Nat} {r : RegName} (h : off < 0x10000) (ha : off % 4 = 0)
    (hr : regAt off = some r) :
    exec (.rd32 (BitVec.ofNat 18 off)) s = .next (respond (.data .four (readReg s r)) s) := by
  simp only [exec, execRd32, hostRead, offset_toNat (show off < 0x40000 by omega), target_reg h ha hr, readTarget]

/-- A write inside IN_BUF, of any width (R283). -/
theorem hostWrite_input {s : State} {n : Width} {i : Nat} {v : Word} (hi : i < 0x10000)
    (ha : (0x10000 + i) % n.bytes = 0) (hm : i + n.bytes ≤ s.maxFrame) :
    hostWrite n (BitVec.ofNat 18 (0x10000 + i)) v s =
      respond .ok (inputWrite (fun t => { t with inBuf := storeIn v i n.bytes t.inBuf }) s) := by
  simp only [hostWrite, offset_toNat (show 0x10000 + i < 0x40000 by omega), target_input hi ha hm, writeTarget]

/-- A read inside IN_BUF, of any width (R282). -/
theorem hostRead_input {s : State} {n : Width} {i : Nat} (hi : i < 0x10000)
    (ha : (0x10000 + i) % n.bytes = 0) (hm : i + n.bytes ≤ s.maxFrame) :
    hostRead n (BitVec.ofNat 18 (0x10000 + i)) s =
      respond (.data n (leValue (fun k => inByte s (i + k)) n.bytes)) s := by
  simp only [hostRead, offset_toNat (show 0x10000 + i < 0x40000 by omega), target_input hi ha hm, readTarget]

/-- A read inside OUT_BUF, of any width (R282, R285). -/
theorem hostRead_output {s : State} {n : Width} {i : Nat} (hi : i < 0x10000)
    (ha : (0x20000 + i) % n.bytes = 0) (hm : i + n.bytes ≤ s.maxFrame + 16) :
    hostRead n (BitVec.ofNat 18 (0x20000 + i)) s =
      respond (.data n (leValue (fun k => outVis s (i + k)) n.bytes)) s := by
  simp only [hostRead, offset_toNat (show 0x20000 + i < 0x40000 by omega), target_output hi ha hm, readTarget]

/-- A write inside OUT_BUF, of any width, changes nothing (R289). -/
theorem hostWrite_output {s : State} {n : Width} {i : Nat} {v : Word} (hi : i < 0x10000)
    (ha : (0x20000 + i) % n.bytes = 0) (hm : i + n.bytes ≤ s.maxFrame + 16) :
    hostWrite n (BitVec.ofNat 18 (0x20000 + i)) v s = respond .ok s := by
  simp only [hostWrite, offset_toNat (show 0x20000 + i < 0x40000 by omega), target_output hi ha hm, writeTarget]

/-- Instructions one after another: the first part, then the second. -/
theorem performAll_append {is js : List Instr} {s t : State} (h : performAll is s = .next t) :
    performAll (is ++ js) s = performAll js t := by
  induction is generalizing s with
  | nil => cases h; rfl
  | cons i is ih =>
    simp only [performAll, List.cons_append] at h ⊢
    cases hi : exec i s with
    | next u => rw [hi] at h; exact ih h
    | fault r => cases r
    | refused r => rw [hi] at h; cases h

/-! ## The expansions of LDKEY and LDBUF (R118) -/

/-- A sequence has its writes exactly when they fit the offsets, and then these are they. -/
theorem storeSequence_eq_some {off : Nat} {bytes : List Byte} {is : List Instr} :
    storeSequence off bytes = some is ↔ off + bytes.length ≤ 0x40000 ∧
      is = (List.range ((bytes.length + 3) / 4)).map fun j =>
        storeWord (BitVec.ofNat 18 (off + 4 * j)) (sequenceWord bytes j) := by
  unfold storeSequence
  split <;> simp_all [eq_comm]

/-- No offset of a sequence's writes wraps around (R10). -/
theorem storeSequence_offset {off j : Nat} {bytes : List Byte} (h : off + bytes.length ≤ 0x40000)
    (hj : j < (bytes.length + 3) / 4) : (BitVec.ofNat 18 (off + 4 * j)).toNat = off + 4 * j :=
  offset_toNat (by omega)

/-- The sequences without writes are those with a word at an offset of more than 18 bits. -/
theorem storeSequence_eq_none {off : Nat} {bytes : List Byte} (ha : off % 4 = 0) (h : off ≤ 0x40000) :
    storeSequence off bytes = none ↔ ∃ j < (bytes.length + 3) / 4, 0x40000 ≤ off + 4 * j := by
  unfold storeSequence
  split
  · simp only [reduceCtorEq, false_iff, not_exists, not_and]
    intro j hj
    omega
  · simp only [true_iff]
    exact ⟨(0x40000 - off) / 4, by omega, by omega⟩

/-- LDKEY of up to 32 bytes: the key words, then KEY_LEN. -/
theorem expandLdkey_of_le {key : List Byte} (h : key.length ≤ 32) :
    expandLdkey key = some (((List.range ((key.length + 3) / 4)).map fun j =>
      storeWord (BitVec.ofNat 18 (0x040 + 4 * j)) (sequenceWord key j)) ++
        [storeWord 0x00020#18 (BitVec.ofNat 32 key.length)]) := by
  simp only [expandLdkey, h, if_true, storeSequence_eq_some.2 ⟨show 0x040 + key.length ≤ 0x40000 by omega, rfl⟩,
    Option.map_some]

/-- LDBUF of up to 0x30000 bytes: the frame's words, then DATA_LEN. -/
theorem expandLdbuf_of_le {frame : List Byte} (h : frame.length ≤ 0x30000) :
    expandLdbuf frame = some (((List.range ((frame.length + 3) / 4)).map fun j =>
      storeWord (BitVec.ofNat 18 (0x10000 + 4 * j)) (sequenceWord frame j)) ++
        [storeWord 0x00024#18 (BitVec.ofNat 32 frame.length)]) := by
  simp only [expandLdbuf, storeSequence_eq_some.2 ⟨show 0x10000 + frame.length ≤ 0x40000 by omega, rfl⟩,
    Option.map_some]

/-- LDKEY of more than 32 bytes does not exist. -/
theorem expandLdkey_eq_none {key : List Byte} : expandLdkey key = none ↔ 32 < key.length := by
  by_cases h : key.length ≤ 32
  · rw [expandLdkey_of_le h]; simp; omega
  · simp only [expandLdkey, if_neg h, true_iff]; omega

/-- LDBUF of more than 0x30000 bytes has no expansion (log 28). -/
theorem expandLdbuf_eq_none {frame : List Byte} : expandLdbuf frame = none ↔ 0x30000 < frame.length := by
  by_cases h : frame.length ≤ 0x30000
  · rw [expandLdbuf_of_le h]; simp; omega
  · simp only [expandLdbuf, Option.map_eq_none_iff, storeSequence,
      if_neg (show ¬ 0x10000 + frame.length ≤ 0x40000 by omega), true_iff]; omega

end Sys2Proof.Machine
end

