-- ==== Sys2Proof/Tests/Slice0.lean ====
section
/-! SUPPORT. The author's own tests: WellFormed smoke tests, decode tests of words written out from
30_encoding.md and 95_test_vectors.md, known answers of the functional units, one-step tests, and for
every obligation with hypotheses a witness that meets them. Expected values are the spec's. -/

namespace Sys2Proof.Tests

open Sys2Proof Sys2Proof.Machine

/-! ## Well-formed terms: the three commands' words are not ILLEGAL (R111) -/

theorem test_illegal_word_0_refused : (Instr.illegal 0#4 0#28).wellFormed = false := by decide
theorem test_illegal_word_1_refused : (Instr.illegal 1#4 0#28).wellFormed = false := by decide
theorem test_illegal_word_2_refused : (Instr.illegal 2#4 0#28).wellFormed = false := by decide
theorem test_illegal_word_3_admitted : (Instr.illegal 3#4 0#28).wellFormed = true := by decide
theorem test_illegal_rsvd_admitted : (Instr.illegal 1#4 1#28).wellFormed = true := by decide

/-! ## Decoding: R110, R117 and 95_test_vectors.md §2.9, §2.10 -/

theorem test_decode_nop : decodeTableWord 32 0x00000000 = some .nop := by decide
theorem test_decode_encrypt : decodeTableWord 32 0x00000001 = some .encrypt := by decide
theorem test_decode_decrypt : decodeTableWord 32 0x00000002 = some .decrypt := by decide
theorem test_decode_illegal : decodeTableWord 32 0x80000001 = some (.illegal 0x1#4 0x8000000#28) := by decide
theorem test_decode_rd8 : decodeTableWord 64 0x0002001F00000000 = some (.rd8 0x2001F#18) := by decide
theorem test_decode_rd16 : decodeTableWord 64 0x2002001E00000000 = some (.rd16 0x2001E#18) := by decide
theorem test_decode_rd32 : decodeTableWord 64 0x4002100C00000000 = some (.rd32 0x2100C#18) := by decide
theorem test_decode_wr8 : decodeTableWord 64 0x8001001000000010 = some (.wr8 0x10010#18 0x10#8) := by decide
theorem test_decode_wr16 : decodeTableWord 64 0xA001000E00000F0E = some (.wr16 0x1000E#18 0x0F0E#16) := by decide
theorem test_decode_wr32 : decodeTableWord 64 0xC0010000CE6A969F = some (.wr32 0x10000#18 0xCE6A969F#32) := by decide
theorem test_decode_size_3 : decode (txnBytes 0xE000000C00000001#64) = .error .illegalSize := by rfl
theorem test_decode_rsvd_high : decode (txnBytes 0xD000000C00000001#64) = .error .reservedBits := by rfl
theorem test_decode_rsvd_low : decode (txnBytes 0x4004001000000000#64) = .error .reservedBits := by rfl
theorem test_decode_length : decode [0x00#8, 0x00#8] = .error .wordLength := by rfl

/-! ## Known answers: R190 to R208, R151, and 95_test_vectors.md §2.1 to §2.5 -/

theorem test_xtime : xtime 0x80#8 = 0x1B#8 ∧ xtime 0xFF#8 = 0xE5#8 ∧ xtime 0x57#8 = 0xAE#8 := by decide
theorem test_gmul : gmul 0x57#8 0x83#8 = 0xC1#8 ∧ gmul 0x57#8 0x13#8 = 0xFE#8 := by decide +kernel
theorem test_inv : inv 0x53#8 = 0xCA#8 ∧ inv 0x00#8 = 0x00#8 ∧ inv 0x01#8 = 0x01#8 := by decide +kernel
theorem test_sbox : sbox 0x53#8 = 0xED#8 ∧ sbox 0x10#8 = 0xCA#8 ∧ sbox 0x9A#8 = 0xB8#8 := by decide
theorem test_invSbox : invSbox 0x16#8 = 0xFF#8 ∧ invSbox 0x00#8 = 0x52#8 ∧ invSbox 0x52#8 = 0x48#8 := by decide
theorem test_mixColumn : mixColumn ⟨0xDB, 0x13, 0x53, 0x45⟩ = ⟨0x8E, 0x4D, 0xA1, 0xBC⟩ ∧
    mixColumn ⟨0x2D, 0x26, 0x31, 0x4C⟩ = ⟨0x4D, 0x7E, 0xBD, 0xF8⟩ := by decide +kernel
theorem test_invMixColumn : invMixColumn ⟨0x9F, 0xDC, 0x58, 0x9D⟩ = ⟨0xF2, 0x0A, 0x22, 0x5C⟩ := by decide +kernel
theorem test_shiftRows : blockBytes (shiftRows (blockAt
    [0x00, 0x01, 0x02, 0x03, 0x04, 0x05, 0x06, 0x07, 0x08, 0x09, 0x0A, 0x0B, 0x0C, 0x0D, 0x0E, 0x0F] 0)) =
    [0x00, 0x05, 0x0A, 0x0F, 0x04, 0x09, 0x0E, 0x03, 0x08, 0x0D, 0x02, 0x07, 0x0C, 0x01, 0x06, 0x0B] := by decide
theorem test_select : select 0x110#32 = none ∧ select 33#32 = none ∧ select 24#32 = some (6, 12) := by decide
theorem test_rcon : [1, 2, 3, 4, 5, 6, 7, 8, 9, 10].map rc =
    [0x01#8, 0x02#8, 0x04#8, 0x08#8, 0x10#8, 0x20#8, 0x40#8, 0x80#8, 0x1B#8, 0x36#8] := by decide
theorem test_subWord_rotWord : rotWord ⟨0x09, 0xCF, 0x4F, 0x3C⟩ = ⟨0xCF, 0x4F, 0x3C, 0x09⟩ ∧
    subWord ⟨0xCF, 0x4F, 0x3C, 0x09⟩ = ⟨0x8A, 0x84, 0xEB, 0x01⟩ := by decide

/-- The 16-byte key of R151's first row. -/
def keyA1 : List Byte :=
  [0x2B, 0x7E, 0x15, 0x16, 0x28, 0xAE, 0xD2, 0xA6, 0xAB, 0xF7, 0x15, 0x88, 0x09, 0xCF, 0x4F, 0x3C]

/-- The 24-byte key of R151's second row. -/
def keyA2 : List Byte :=
  [0x8E, 0x73, 0xB0, 0xF7, 0xDA, 0x0E, 0x64, 0x52, 0xC8, 0x10, 0xF3, 0x2B, 0x80, 0x90, 0x79, 0xE5] ++
  [0x62, 0xF8, 0xEA, 0xD2, 0x52, 0x2C, 0x6B, 0x7B]

/-- The 32-byte key of R151's third row. -/
def keyA3 : List Byte :=
  [0x60, 0x3D, 0xEB, 0x10, 0x15, 0xCA, 0x71, 0xBE, 0x2B, 0x73, 0xAE, 0xF0, 0x85, 0x7D, 0x77, 0x81] ++
  [0x1F, 0x35, 0x2C, 0x07, 0x3B, 0x61, 0x08, 0xD7, 0x2D, 0x98, 0x10, 0xA3, 0x09, 0x14, 0xDF, 0xF4]

theorem test_schedule_128 : (keyExpansion keyA1 4 10).getD 4 Quad.zero = ⟨0xA0, 0xFA, 0xFE, 0x17⟩ ∧
    (keyExpansion keyA1 4 10).getD 43 Quad.zero = ⟨0xB6, 0x63, 0x0C, 0xA6⟩ := by decide +kernel
theorem test_schedule_192 : (keyExpansion keyA2 6 12).getD 7 Quad.zero = ⟨0x24, 0x02, 0xF5, 0xA5⟩ ∧
    (keyExpansion keyA2 6 12).getD 51 Quad.zero = ⟨0x01, 0x00, 0x22, 0x02⟩ := by decide +kernel
theorem test_schedule_256 : (keyExpansion keyA3 8 14).getD 12 Quad.zero = ⟨0xA8, 0xB0, 0x9C, 0x1A⟩ ∧
    (keyExpansion keyA3 8 14).getD 59 Quad.zero = ⟨0x70, 0x6C, 0x63, 0x1E⟩ := by decide +kernel

/-- The bytes 00, 01, 02 and so on: K128, K192 and K256 of 95_test_vectors.md by their lengths. -/
def counting (n : Nat) : List Byte := (List.range n).map (BitVec.ofNat 8)

/-- The plaintext block 00112233445566778899aabbccddeeff of R208. -/
def plain208 : Block := ⟨⟨0x00, 0x11, 0x22, 0x33⟩, ⟨0x44, 0x55, 0x66, 0x77⟩, ⟨0x88, 0x99, 0xAA, 0xBB⟩, ⟨0xCC, 0xDD, 0xEE, 0xFF⟩⟩

/-- The ciphertext block of R208 under K256. -/
def coded256 : Block := ⟨⟨0x8E, 0xA2, 0xB7, 0xCA⟩, ⟨0x51, 0x67, 0x45, 0xBF⟩, ⟨0xEA, 0xFC, 0x49, 0x90⟩, ⟨0x4B, 0x49, 0x60, 0x89⟩⟩

theorem test_cipher_128 : cipher plain208 (keyExpansion (counting 16) 4 10) 10 =
    ⟨⟨0x69, 0xC4, 0xE0, 0xD8⟩, ⟨0x6A, 0x7B, 0x04, 0x30⟩, ⟨0xD8, 0xCD, 0xB7, 0x80⟩, ⟨0x70, 0xB4, 0xC5, 0x5A⟩⟩ := by
  decide +kernel
theorem test_cipher_192 : cipher plain208 (keyExpansion (counting 24) 6 12) 12 =
    ⟨⟨0xDD, 0xA9, 0x7C, 0xA4⟩, ⟨0x86, 0x4C, 0xDF, 0xE0⟩, ⟨0x6E, 0xAF, 0x70, 0xA0⟩, ⟨0xEC, 0x0D, 0x71, 0x91⟩⟩ := by
  decide +kernel
theorem test_cipher_256 : cipher plain208 (keyExpansion (counting 32) 8 14) 14 = coded256 := by decide +kernel
theorem test_invCipher_256 : invCipher coded256 (keyExpansion (counting 32) 8 14) 14 = plain208 := by
  decide +kernel

/-! ## Padding: 95_test_vectors.md §2.4 -/

theorem test_pad_yellow : pad [0x59, 0x45, 0x4C, 0x4C, 0x4F, 0x57] =
    [0x59, 0x45, 0x4C, 0x4C, 0x4F, 0x57] ++ List.replicate 10 0x0A#8 := by decide
theorem test_pad_empty : pad [] = List.replicate 16 0x10#8 := by decide
theorem test_unpad_zero : unpad (List.replicate 16 0x00#8) = none := by decide
theorem test_unpad_three : unpad (List.replicate 13 0x00#8 ++ [0x02, 0x03, 0x03]) = none := by decide
theorem test_unpad_seventeen : unpad (List.replicate 15 0x00#8 ++ [0x11]) = none := by decide
theorem test_unpad_last_bytes_only : unpad (List.replicate 16 0x0F#8) = some [0x0F] := by decide

/-! ## Small states -/

/-- Memory cells 0, 1, 2 and so on of the given bytes. -/
def cells (bytes : List Byte) : List Host.Cell := (List.range bytes.length).map fun i => (i, bytes.getD i 0)

/-- An idle state with the zero key of 16 bytes, both operands present and the given frame. -/
def ready (frame : List Byte) : State :=
  { State.reset with
    keyLen      := 16
    keyPresent  := true
    dataPresent := true
    dataLen     := BitVec.ofNat 32 frame.length
    inBuf       := cells frame }

/-- The same with a command running. -/
def running (op : Op) (frame : List Byte) : State := accept op (ready frame)

/-- The state with its next events put in. -/
def scheduled (evs : List Event) (s : State) : State := { s with schedule := evs }

/-- The next state of an instruction, if there is one. -/
def after (i : Instr) (s : State) : Option State :=
  match exec i s with
  | .next t => some t
  | .fault _ => none
  | .refused _ => none

/-- The bytes of the ASCII text "YELLOW SUBMARINE". -/
def ys : List Byte :=
  [0x59, 0x45, 0x4C, 0x4C, 0x4F, 0x57, 0x20, 0x53, 0x55, 0x42, 0x4D, 0x41, 0x52, 0x49, 0x4E, 0x45]

/-- The ciphertext of V-E2a: the empty frame under the zero key. -/
def e2a : List Byte :=
  [0x01, 0x43, 0xDB, 0x63, 0xEE, 0x66, 0xB0, 0xCD, 0xFF, 0x9F, 0x69, 0x91, 0x76, 0x80, 0x15, 0x1E]

/-- The ciphertext of V-D7, which decrypts to thirteen zero bytes and padding. -/
def d7 : List Byte :=
  [0x4A, 0x61, 0x2F, 0x39, 0xC0, 0xE5, 0xFC, 0x19, 0x37, 0xDE, 0xCC, 0x2F, 0x16, 0x0E, 0x51, 0x74]

/-- The ciphertext of V-D6, whose decryption ends in invalid padding. -/
def d6 : List Byte :=
  [0xB7, 0xF8, 0x23, 0xEC, 0x2E, 0xA9, 0x09, 0xDE, 0xB5, 0xEF, 0xF5, 0x7D, 0x2F, 0x09, 0x2A, 0xD5]

/-! ## Commands end to end: 95_test_vectors.md §2.6 to §2.8, program P1 -/

theorem test_encrypt_ys : (engineStep (running .encrypt ys)).outBuf =
    cells ([0x9F, 0x96, 0x6A, 0xCE, 0xEC, 0xE8, 0x47, 0xCD, 0x33, 0x33, 0xBB, 0x0F, 0xD5, 0x30, 0x61, 0x72] ++ e2a) ∧
    readReg (engineStep (running .encrypt ys)) .status = 0x00000006#32 ∧
    readReg (engineStep (running .encrypt ys)) .outLen = 0x20#32 := by decide +kernel

theorem test_decrypt_thirteen_zeros : (engineStep (running .decrypt d7)).outBuf = [] ∧
    readReg (engineStep (running .decrypt d7)) .status = 0x00000006#32 ∧
    readReg (engineStep (running .decrypt d7)) .outLen = 13#32 := by decide +kernel

theorem test_decrypt_bad_padding : readReg (engineStep (running .decrypt d6)) .status = 0x00000042#32 ∧
    readReg (engineStep (running .decrypt d6)) .outLen = 0#32 := by decide +kernel

/-- V-C3, V-C5, V-C6 and V-C7: the order of the checks. -/
theorem test_check_order :
    readReg (engineStep (accept .encrypt { State.reset with dataPresent := true, keyLen := 20 })) .status = 0x12#32 ∧
    readReg (engineStep (accept .decrypt { ready [] with keyLen := 20, dataLen := 15 })) .status = 0x22#32 ∧
    readReg (engineStep (accept .decrypt { ready [] with dataLen := 4097 })) .status = 0x32#32 ∧
    readReg (engineStep (accept .decrypt { ready [] with dataLen := 4112 })) .status = 0x52#32 := by decide +kernel

/-! ## One transaction: 95_test_vectors.md §2.9, §2.10, programs P1 to P3 -/

theorem test_caps : (after (.rd32 0x00004#18) State.reset).map (·.response) =
    some (some (.data .four 0x001F1000#32)) := by decide
theorem test_status_while_busy : (after (.rd32 0x00010#18) (running .encrypt [])).map (·.response) =
    some (some (.data .four 0x00000001#32)) := by decide
theorem test_rd16_register : (after (.rd16 0x00010#18) State.reset).map (·.response) =
    some (some .busError) := by decide
theorem test_rd16_high_half : (after (.rd16 0x10002#18) (ready [0x41, 0x42, 0x43, 0x44])).map (·.response) =
    some (some (.data .two 0x4443#32)) := by decide
theorem test_rd8_past_buffer : (after (.rd8 0x11000#18) State.reset).map (·.response) =
    some (some .busError) := by decide
theorem test_rd8_last_byte : (after (.rd8 0x1000F#18) (ready ys)).map (·.response) =
    some (some (.data .one 0x45#32)) := by decide
theorem test_rd32_frame : (after (.rd32 0x1000C#18) (ready ys)).map (·.response) =
    some (some (.data .four 0x454E4952#32)) := by decide
theorem test_rd32_unmapped : (after (.rd32 0x0002C#18) State.reset).map (·.response) =
    some (some .busError) := by decide
theorem test_wr8_busy : (after (.wr8 0x10000#18 0xAA#8) (running .encrypt ys)).map errWord = some 0x4#32 ∧
    (after (.wr8 0x10000#18 0xAA#8) (running .encrypt ys)).map (·.inBuf) = some (cells ys) := by decide
theorem test_wr8_output_ignored : (after (.wr8 0x20000#18 0x55#8) State.reset).map (·.response) =
    some (some .ok) := by decide
theorem test_wr16_stores : (after (.wr16 0x10002#18 0x4C4B#16) State.reset).map (·.inBuf) =
    some [(2, 0x4B#8), (3, 0x4C#8)] := by decide
theorem test_wr32_present : (after (.wr32 0x0001C#18 0xFFFFFFFF#32) State.reset).map presentWord =
    some 0x3#32 := by decide
theorem test_wr32_err : (after (.wr32 0x00014#18 0x5#32)
    { State.reset with illegalCmd := true, cmdWhileBusy := true, writeWhileBusy := true }).map errWord =
    some 0x2#32 := by decide
theorem test_nop_busy : (after .nop (running .encrypt [])).map errWord = some 0x2#32 := by decide
theorem test_illegal_busy : (after (.illegal 3#4 0#28) (running .encrypt [])).map errWord = some 0x2#32 := by
  decide
theorem test_illegal_idle : (after (.illegal 1#4 1#28) State.reset).map errWord = some 0x1#32 := by decide

/-- The text of P1's transaction 14 (R116). -/
theorem test_text : instrText (.rd32 0x00010#18) = "RD32 STATUS" := by decide +kernel

/-- LDKEY and LDBUF of three bytes (R118). -/
theorem test_pseudo :
    expandLdkey [0x01, 0x02, 0x03] = some [.wr32 0x00040#18 0x00030201#32, .wr32 0x00020#18 3#32] ∧
    expandLdbuf (counting 5) =
      some [.wr32 0x10000#18 0x03020100#32, .wr32 0x10004#18 0x04#32, .wr32 0x00024#18 5#32] ∧
    expandSetp true false = [.wr32 0x0001C#18 1#32] ∧ expandLdkey (counting 33) = none := by decide

/-- No LDBUF wraps around to the registers (R10). -/
theorem test_ldbuf_no_wrap : expandLdbuf (List.replicate 0x30001 0x00#8) = none :=
  expandLdbuf_eq_none.2 (by rw [List.length_replicate]; decide)

/-! ## Witnesses: states and operands that meet the hypotheses of each obligation -/

theorem inv_ready : Inv (ready ys) where
  params := by decide
  status := by decide
  phase := by decide
  outLen := by decide
  buffers := by decide
  outBuf := fun _ => by decide
  datapath := rfl

theorem inv_running (op : Op) : Inv (running op ys) where
  params := by cases op <;> decide
  status := by cases op <;> decide
  phase := by cases op <;> decide
  outLen := by cases op <;> decide
  buffers := by cases op <;> decide
  outBuf := fun h => by cases h
  datapath := Datapath.zero_legal _

theorem inv_scheduled {s : State} (evs : List Event) (h : Inv s) : Inv (scheduled evs s) :=
  ⟨h.params, h.status, h.phase, h.outLen, h.buffers, h.outBuf, h.datapath⟩

theorem witness_DecodeOfEncode : (Instr.illegal 15#4 0xFFFFFFF#28).wellFormed = true ∧
    (Instr.illegal 3#4 0#28).wellFormed = true ∧ (Instr.wr8 0x3FFFF#18 0xFF#8).wellFormed = true := by decide

theorem witness_EncodeOfDecodedTransaction :
    decode (txnBytes 0x00000000FFFFFFFF#64) = .ok (.rd8 0#18) ∧
    decode (txnBytes 0x4002100C00000000#64) = .ok (.rd32 0x2100C#18) ∧
    decode (txnBytes 0x80030000000000FF#64) = .ok (.wr8 0x30000#18 0xFF#8) ∧
    decode (txnBytes 0xA00100020000FFFF#64) = .ok (.wr16 0x10002#18 0xFFFF#16) ∧
    decode (txnBytes 0xC000000CFFFFFFFF#64) = .ok (.wr32 0x0000C#18 0xFFFFFFFF#32) ∧
    txnData 0x4002100C00000000#64 = 0#32 ∧ (txnData 0x80030000000000FF#64).toNat < 2 ^ 8 ∧
    (txnData 0xA00100020000FFFF#64).toNat < 2 ^ 16 := ⟨rfl, rfl, rfl, rfl, rfl, by decide, by decide, by decide⟩

theorem witness_NonTransactionsRefused :
    (scheduled [.host (txnBytes 0x6000000000000000#64)] State.reset).schedule =
      .host (txnBytes 0x6000000000000000#64) :: [] ∧ txnSize 0x6000000000000000#64 = 3#2 ∧
    txnRsvd 0x4004000000000000#64 = 1#11 ∧ txnRsvd 0xD000000000000000#64 = 0x400#11 ∧
    ¬(txnSize 0x4000000000000000#64 = 3#2 ∨ txnRsvd 0x4000000000000000#64 ≠ 0#11) := by decide

theorem witness_StepRunsDecodedInstruction :
    (scheduled [.host (commandBytes 1#32), .engine] (ready ys)).schedule = .host (commandBytes 1#32) :: [.engine] ∧
    decode (commandBytes 1#32) = .ok .encrypt := ⟨rfl, rfl⟩

theorem witness_FetchWordRunsInstruction : decodeTableWord 32 0x00000002 = some .decrypt ∧
    decodeTableWord 64 0xC000000C00000001 = some (.wr32 0x0000C#18 1#32) := by decide

theorem witness_StepWithoutHost :
    (scheduled [.engine] (running .encrypt ys)).schedule = .engine :: [] ∧
    (scheduled [.reset] (running .encrypt ys)).schedule = .reset :: [] ∧
    ((ready ys).schedule = [] ∧ (ready ys).phase = .idle) ∧
    ((running .decrypt d7).schedule = [] ∧ (running .decrypt d7).phase = .run .decrypt) := by decide

theorem witness_BusAddressReachesOffset :
    (scheduled [.bus false .four (Config.base + 0x2FFFF) 0] State.reset).schedule =
      .bus false .four (Config.base + 0x2FFFF) 0 :: [] ∧
    (scheduled [.bus true .one (Config.base + 0x30000) 0] State.reset).schedule =
      .bus true .one (Config.base + 0x30000) 0 :: [] := ⟨rfl, rfl⟩

theorem witness_idle_and_busy : (ready ys).busy = false ∧ (running .encrypt ys).busy = true := by decide

theorem witness_NopChangesNothing : State.reset.busy = false ∧ (running .decrypt ys).busy = true := by decide

theorem witness_CommandAcceptance : (ready ys).busy = false ∧ (running .encrypt ys).phase = .run .encrypt ∧
    (running .decrypt ys).phase = .run .decrypt := by decide

theorem witness_IllegalWordSetsFlagOnly : (3#32 ≠ 0 ∧ 3#32 ≠ 1 ∧ 3#32 ≠ 2) ∧
    (0xFFFFFFFF#32 ≠ 0 ∧ 0xFFFFFFFF#32 ≠ 1 ∧ 0xFFFFFFFF#32 ≠ 2) ∧ State.reset.busy = false := by decide

theorem witness_CommandWhileBusyDiscarded : (running .encrypt ys).busy = true := by decide

theorem witness_CmdWriteDispatch : (running .encrypt ys).busy = true ∧ (ready ys).busy = false ∧
    (3#32 ≠ 0 ∧ 3#32 ≠ 1 ∧ 3#32 ≠ 2) := by decide

theorem witness_CommandFrame :
    exec (decodeCommand 0#32) (ready ys) = .next (respond .ok (ready ys)) ∧
    exec (decodeCommand 1#32) (running .decrypt ys) = .next (respond .ok (setCmdWhileBusy (running .decrypt ys))) ∧
    exec (decodeCommand 2#32) (ready ys) = .next (respond .ok (running .decrypt ys)) := ⟨rfl, rfl, rfl⟩

theorem witness_KeyLengthSelection : select 0#32 = none ∧ select 15#32 = none ∧ select 17#32 = none ∧
    select 33#32 = none ∧ select 0xFFFFFFFF#32 = none := by decide

theorem witness_ResultByChecks : select 20#32 = none ∧ select 16#32 = some (4, 10) ∧
    ((17#32).toNat % 16 ≠ 0 ∧ 4096 < (4097#32).toNat ∧ (4096#32).toNat ≤ 4096 ∧ (4096#32).toNat % 16 = 0) ∧
    (4112#32 ≠ 0 ∧ (4112#32).toNat % 16 = 0 ∧ 4096 < (4112#32).toNat) ∧
    unpad (ecb (fun b => invCipher b (keyExpansion (bytesOf (keyByte (ready d7)) 16) 4 10) 10)
      (bytesOf (inByte (ready d7)) 16)) = some (List.replicate 13 0x00#8) ∧
    unpad (ecb (fun b => invCipher b (keyExpansion (bytesOf (keyByte (ready d6)) 16) 4 10) 10)
      (bytesOf (inByte (ready d6)) 16)) = none := by decide +kernel

theorem witness_KeyBytesBeyondLengthIgnored : select (ready ys).keyLen ≠ none ∧
    (∀ j : Fin 8, 4 * j.val < (ready ys).keyLen.toNat → ((ready ys).key.set 4 0xFFFFFFFF#32)[j] = (ready ys).key[j]) ∧
    (ready ys).key.set 4 0xFFFFFFFF#32 ≠ (ready ys).key := by decide

/-- Two states with equal operands that differ elsewhere. -/
theorem witness_ResultIsFunctionOfOperands :
    (clearIrq 0 { ready ys with irqEn := true, illegalCmd := true }).keyLen = (ready ys).keyLen ∧
    (∀ i, i < 16 → inByte { ready ys with irqEn := true, illegalCmd := true } i = inByte (ready ys) i) ∧
    { ready ys with irqEn := true, illegalCmd := true } ≠ ready ys := ⟨rfl, fun _ _ => rfl, by decide⟩

theorem witness_BlocksAreIndependent : 2 < (pad (ys ++ ys)).length / 16 ∧ 1 < (ys ++ ys).length / 16 ∧
    blockAt (pad (ys ++ ys)) (16 * 0) = blockAt (pad (ys ++ ys)) (16 * 1) := by decide

theorem witness_PaddedFrame : ([] : List Byte).length % 16 = 0 ∧ ys.length % 16 = 0 := by decide

theorem witness_UnpadAcceptsExactlyPadding : (List.replicate 16 0x10#8).length % 16 = 0 ∧
    List.replicate 16 0x10#8 ≠ [] ∧ unpad (List.replicate 16 0x10#8) = some [] := by decide

theorem witness_InverseIsUnique : 0x53#8 ≠ 0 ∧ gmul 0x53#8 0xCA#8 = 1#8 := by decide +kernel

theorem witness_KeyScheduleRecurrence :
    ((4, 10) : Nat × Nat) ∈ [((4, 10) : Nat × Nat), (6, 12), (8, 14)] ∧ 3 < 4 ∧ 4 ≤ 43 ∧ 43 < 4 * (10 + 1) := by decide

/-- The state that decrypts V-E2a after `running .encrypt []` gave it. -/
theorem witness_FrameRoundTrip :
    ParamsLegal (running .encrypt []) ∧ (running .encrypt []).phase = .run .encrypt ∧
    (engineStep (running .encrypt [])).value = true ∧
    (running .encrypt []).dataLen.toNat < (running .encrypt []).maxFrame ∧
    (running .decrypt e2a).phase = .run .decrypt ∧
    (running .decrypt e2a).maxFrame = (running .encrypt []).maxFrame ∧
    (running .decrypt e2a).keyPresent = true ∧ (running .decrypt e2a).dataPresent = true ∧
    (running .decrypt e2a).keyLen = (running .encrypt []).keyLen ∧
    (running .decrypt e2a).key = (running .encrypt []).key ∧
    (running .decrypt e2a).dataLen = (engineStep (running .encrypt [])).outLen ∧
    (∀ i, i < 16 → inByte (running .decrypt e2a) i = outByte (engineStep (running .encrypt [])) i) := by
  decide +kernel

/-- The other clause: a frame of MAX_FRAME_BYTES bytes, here of 16, and its ciphertext's length. -/
theorem witness_FrameRoundTrip_full :
    ParamsLegal { running .encrypt ys with maxFrame := 16 } ∧
    (engineStep { running .encrypt ys with maxFrame := 16 }).value = true ∧
    { running .encrypt ys with maxFrame := 16 }.dataLen.toNat = 16 ∧
    { running .decrypt ys with maxFrame := 16, dataLen := 32 }.phase = .run .decrypt ∧
    { running .decrypt ys with maxFrame := 16, dataLen := 32 }.dataLen =
      (engineStep { running .encrypt ys with maxFrame := 16 }).outLen := by decide +kernel

theorem witness_CommandWordDecode : (0x11#32 ≠ 0x00000000#32 ∧ 0x11#32 ≠ 0x00000001#32 ∧ 0x11#32 ≠ 0x00000002#32) ∧
    (0xFFFFFFFF#32 ≠ 0x00000000#32 ∧ 0xFFFFFFFF#32 ≠ 0x00000001#32 ∧ 0xFFFFFFFF#32 ≠ 0x00000002#32) := by decide

theorem witness_CompletionRecord : (ready ys).phase = .idle ∧ (running .encrypt ys).phase = .run .encrypt ∧
    commandResult .encrypt { ready ys with keyPresent := false } = .absent .absentInput ∧
    commandResult .decrypt { ready ys with keyLen := 33 } = .absent .keyLength ∧
    commandResult .decrypt { ready ys with dataLen := 17 } = .absent .ctLength ∧
    commandResult .encrypt { ready ys with dataLen := 4097 } = .absent .capacity ∧
    commandResult .decrypt (ready d6) = .absent .badPadding ∧
    commandResult .decrypt (ready d7) = .value (List.replicate 13 0x00#8) := by decide +kernel

theorem witness_CompletionFrame : (running .encrypt ys).phase ≠ .idle := by decide

theorem witness_EncryptCompletes : ParamsLegal (ready []) ∧ (ready []).busy = false ∧
    (ready []).keyPresent = true ∧ (ready []).dataPresent = true ∧ select (ready []).keyLen = some (4, 10) ∧
    (ready []).dataLen.toNat ≤ (ready []).maxFrame ∧
    { ready [] with dataLen := 4096 }.dataLen.toNat ≤ (ready []).maxFrame := by decide

theorem witness_DecryptCompletes : ParamsLegal (ready d7) ∧ (ready d7).busy = false ∧
    (ready d7).keyPresent = true ∧ (ready d7).dataPresent = true ∧ select (ready d7).keyLen = some (4, 10) ∧
    (ready d7).dataLen ≠ 0 ∧ (ready d7).dataLen.toNat % 16 = 0 ∧ (ready d7).dataLen.toNat ≤ (ready d7).maxFrame ∧
    unpad (decryptFrame (keyExpansion (keyOperand (ready d7)) 4 10) 10 (frameOperand (ready d7))) =
      some (List.replicate 13 0x00#8) ∧
    unpad (decryptFrame (keyExpansion (keyOperand (ready d6)) 4 10) 10 (frameOperand (ready d6))) = none := by
  decide +kernel

theorem witness_ResultLength : ParamsLegal (running .encrypt []) ∧ (engineStep (running .encrypt [])).value = true ∧
    (engineStep (running .decrypt e2a)).value = true ∧ (running .decrypt e2a).phase = .run .decrypt := by
  decide +kernel

theorem witness_KeyMustBeRewritten : (running .encrypt ys).phase = .run .encrypt := by decide

theorem witness_ResultsHiddenWhileBusy : Inv (running .encrypt ys) ∧ (running .encrypt ys).busy = true ∧
    4108 + Width.four.bytes ≤ (running .encrypt ys).maxFrame + 16 ∧ (0x20000 + 4108) % Width.four.bytes = 0 ∧
    4111 + Width.one.bytes ≤ (running .encrypt ys).maxFrame + 16 := ⟨inv_running _, by decide⟩

theorem witness_BufferReads : 4095 + 1 ≤ (ready ys).maxFrame ∧ 4094 + 2 ≤ (ready ys).maxFrame ∧
    4092 + 4 ≤ (ready ys).maxFrame ∧ 4111 + 1 ≤ (ready ys).maxFrame + 16 ∧
    4110 + 2 ≤ (ready ys).maxFrame + 16 ∧ 4108 + 4 ≤ (ready ys).maxFrame + 16 := by decide

theorem witness_BusErrorExactlyWhenIllegal : LegalAccess 4096 0x0005C 4 ∧ LegalAccess 4096 0x10FFF 1 ∧
    LegalAccess 4096 0x2100C 4 ∧ ¬ LegalAccess 4096 0x0002C 4 ∧ ¬ LegalAccess 4096 0x00012 4 ∧
    ¬ LegalAccess 4096 0x00010 2 ∧ ¬ LegalAccess 4096 0x11000 1 ∧ ¬ LegalAccess 4096 0x21010 4 ∧
    ¬ LegalAccess 4096 0x30000 4 ∧ ¬ LegalAccess 4096 0x10001 2 := by
  simp [LegalAccess, registerOffsets]

theorem witness_ReadOnlyWritesIgnored : 0x00028#18 ∈ [0x00000#18, 0x00004#18, 0x00010#18, 0x00028#18] ∧
    (0x20000 + 4110) % Width.two.bytes = 0 ∧ 4110 + Width.two.bytes ≤ (ready ys).maxFrame + 16 := by decide

theorem witness_InputWritesWhileBusyDropped : (running .decrypt ys).busy = true ∧
    0x00024#18 ∈ [0x0001C#18, 0x00020#18, 0x00024#18] ∧ (0x10000 + 4095) % Width.one.bytes = 0 ∧
    4095 + Width.one.bytes ≤ (running .decrypt ys).maxFrame := by decide

theorem witness_InputRegisterWrites : (ready ys).busy = false := by decide

theorem witness_BufferWrites : Inv (ready ys) ∧ (ready ys).busy = false ∧ 4095 + 1 ≤ (ready ys).maxFrame ∧
    4094 + 2 ≤ (ready ys).maxFrame ∧ 4092 + 4 ≤ (ready ys).maxFrame := ⟨inv_ready, by decide⟩

theorem witness_MixedWidthAccess : Inv (ready ys) ∧ (ready ys).busy = false ∧ 4092 < 0x10000 ∧ 4092 % 4 = 0 ∧
    4092 + 4 ≤ (ready ys).maxFrame := ⟨inv_ready, by decide⟩

theorem witness_ResetAbandonsCommand : (scheduled [.reset, .engine] (running .encrypt ys)).schedule = .reset :: [.engine] := by
  decide

theorem witness_StepKeepsInvariant : Inv (scheduled [.host (commandBytes 1#32)] (ready ys)) ∧
    step (scheduled [.host (commandBytes 1#32)] (ready ys)) =
      .next (settle (respond .ok (running .encrypt ys))) := ⟨inv_scheduled _ inv_ready, rfl⟩

theorem witness_InputsFrozenWhileBusy : Inv (scheduled [.host (commandBytes 1#32)] (running .decrypt ys)) ∧
    (scheduled [.host (commandBytes 1#32)] (running .decrypt ys)).busy = true ∧
    step (scheduled [.host (commandBytes 1#32)] (running .decrypt ys)) =
      .next (settle (respond .ok (setCmdWhileBusy (running .decrypt ys)))) ∧
    (settle (respond .ok (setCmdWhileBusy (running .decrypt ys)))).busy = true :=
  ⟨inv_scheduled _ (inv_running _), rfl, rfl, rfl⟩

/-- A completion, an acceptance and a reset: the three clauses. -/
theorem witness_OnlyCompletionEndsCommand :
    (Inv (running .encrypt ys) ∧ step (running .encrypt ys) = .next (engineStep (running .encrypt ys)) ∧
      (running .encrypt ys).done = false ∧ (engineStep (running .encrypt ys)).done = true ∧
      (running .encrypt ys).irqDone = false ∧ (engineStep (running .encrypt ys)).irqDone = true) ∧
    ((ready ys).busy = false ∧ (settle (respond .ok (running .encrypt ys))).busy = true) ∧
    ((scheduled [.reset] (running .encrypt ys)).busy = true ∧
      step (scheduled [.reset] (running .encrypt ys)) = .next (resetEvent (running .encrypt ys)) ∧
      (resetEvent (running .encrypt ys)).busy = false) :=
  ⟨⟨inv_running _, rfl, rfl, rfl, rfl, rfl⟩, ⟨rfl, rfl⟩, rfl, rfl, rfl⟩

theorem witness_DatapathUnobservable :
    SameButDatapath (running .encrypt ys) { running .encrypt ys with draws := 7, datapath := { Datapath.zero with NR := 10 } } ∧
    step (running .encrypt ys) = .next (engineStep (running .encrypt ys)) := ⟨rfl, rfl⟩

theorem witness_KeyCannotBeRead : exec (.rd32 0x00040#18) (ready ys) = .next (respond (.data .four 0#32) (ready ys)) := rfl

theorem witness_AcceptedCommandCompletes :
    Inv (scheduled [.host (commandBytes 0#32), .engine, .reset] (running .encrypt ys)) ∧
    (running .encrypt ys).phase = .run .encrypt ∧ (∀ e ∈ [Event.host (commandBytes 0#32)], HostEvent e) ∧
    (scheduled [.host (commandBytes 0#32), .engine, .reset] (running .encrypt ys)).schedule =
      [.host (commandBytes 0#32)] ++ .engine :: [.reset] ∧
    (scheduled [.host (commandBytes 0#32)] (running .encrypt ys)).schedule = [.host (commandBytes 0#32)] :=
  ⟨inv_scheduled _ (inv_running _), rfl, fun e he => by rw [List.mem_singleton.1 he]; exact ⟨.nop, rfl⟩, rfl, rfl⟩

theorem witness_LoadedOperands : Inv (ready ys) ∧ (ready ys).busy = false ∧ (counting 32).length ≤ 32 ∧
    (List.replicate 4096 0x00#8).length ≤ (ready ys).maxFrame :=
  ⟨inv_ready, rfl, by decide, Nat.le_of_eq List.length_replicate⟩

end Sys2Proof.Tests
end

/-! PROOF. Every step keeps the invariant of the block: the invariant reads only part of the state,
and each thing a step can do (an effect of the host, a response, a completion, a reset, a fresh
hidden datapath) keeps it. -/

namespace Sys2Proof.Machine

/-! ## The part of the state the invariant reads -/

/-- The fields the invariant speaks of. -/
def invFields (s : State) :=
  (s.maxFrame, s.busy, s.done, s.value, s.cause, s.outLen, s.inBuf, s.outBuf, s.phase, s.datapath,
    s.dataLen)

/-- An update of the fields the invariant does not speak of keeps it. -/
theorem Inv.of_invFields_eq {s t : State} (h : Inv s) (he : invFields t = invFields s) : Inv t := by
  cases s; cases t
  simp only [invFields, Prod.mk.injEq] at he
  obtain ⟨rfl, rfl, rfl, rfl, rfl, rfl, rfl, rfl, rfl, rfl, rfl⟩ := he
  exact { h with }

/-- While BUSY is 0 the engine is idle (R52). -/
theorem Inv.phase_idle {s : State} (h : Inv s) (hb : s.busy = false) : s.phase = .idle := by
  by_contra hp
  exact Bool.false_ne_true (hb.symm.trans (h.phase.2 hp))

theorem datapathInv_of_idle {s : State} (hp : s.phase = .idle) :
    DatapathInv s ↔ s.datapath = Datapath.zero := by
  simp only [DatapathInv, hp]

theorem datapathInv_of_run {s : State} {op : Op} (hp : s.phase = .run op) :
    DatapathInv s ↔ Datapath.Legal (blockCount op s.dataLen.toNat) s.datapath := by
  simp only [DatapathInv, hp]

/-! ## The effects of the host -/

/-- Acceptance clears the result registers and finds the datapath zero, which is within the limits
of every frame (R232). -/
theorem accept_keeps_inv {s : State} {op : Op} (h : Inv s) (hb : s.busy = false) : Inv (accept op s) where
  params := h.params
  status := by simp [StatusInv]
  phase := by simp [PhaseInv]
  outLen := by simp [OutLenInv]
  buffers := h.buffers
  outBuf := by simp [OutBufInv]
  datapath := by
    have hd : s.datapath = Datapath.zero := (datapathInv_of_idle (h.phase_idle hb)).1 h.datapath
    rw [datapathInv_of_run (accept_phase op s), accept_datapath, hd]
    exact Datapath.zero_legal _

/-- While idle the datapath is zero whatever DATA_LEN says. -/
theorem writeDataLen_keeps_inv {s : State} {v : Word} (h : Inv s) (hb : s.busy = false) :
    Inv { s with dataLen := v } :=
  have hp : s.phase = .idle := h.phase_idle hb
  { h with datapath := (datapathInv_of_idle (by exact hp)).2 ((datapathInv_of_idle hp).1 h.datapath) }

theorem storeIn_keeps_inv {s : State} {v : Word} {i n : Nat} (h : Inv s) (hn : i + n ≤ s.maxFrame) :
    Inv { s with inBuf := storeIn v i n s.inBuf } :=
  have ⟨hwf, hbelow, hout⟩ := h.buffers
  { h with buffers := ⟨storeIn_wf hwf, storeIn_below hbelow hn, hout⟩ }

/-- Only an acceptance, a write of DATA_LEN and a store touch what the invariant speaks of. -/
theorem Effect.keeps_inv {s t : State} (e : Effect s t) (h : Inv s) : Inv t := by
  cases e with
  | nothing => exact h
  | ctrl v => exact h.of_invFields_eq rfl
  | err v => exact h.of_invFields_eq rfl
  | irq v => exact h.of_invFields_eq rfl
  | cmdBusy hb => exact h.of_invFields_eq rfl
  | illegal hb => exact h.of_invFields_eq rfl
  | accepted op hb => exact accept_keeps_inv h hb
  | writeBusy hb => exact h.of_invFields_eq rfl
  | present v hb => exact h.of_invFields_eq rfl
  | keyLen v hb => exact h.of_invFields_eq rfl
  | dataLen v hb => exact writeDataLen_keeps_inv h hb
  | key j v hb => exact h.of_invFields_eq rfl
  | store v i n hb hn => exact storeIn_keeps_inv h hn

theorem respond_keeps_inv {r : Response} {s : State} (h : Inv s) : Inv (respond r s) :=
  h.of_invFields_eq rfl

/-! ## The engine, its datapath and the reset input -/

/-- A completion whose Value fits OUT_BUF leaves exactly the result in it (R250, R252). -/
theorem complete_keeps_inv {s : State} {res : Result} (h : Inv s)
    (hlen : ∀ B, res = .value B → B.length ≤ s.maxFrame + 16) : Inv (complete res s) := by
  obtain ⟨hwf, hbelow, -, -⟩ := h.buffers
  have hdp : DatapathInv (complete res s) :=
    (datapathInv_of_idle (complete_phase res s)).2 (complete_datapath res s)
  cases res with
  | value B =>
    have hB : B.length ≤ s.maxFrame + 16 := hlen B rfl
    have hmax : s.maxFrame ≤ 65520 := h.params.2.2
    have hout : (complete (.value B) s).outLen.toNat = B.length :=
      (BitVec.toNat_ofNat ..).trans (Nat.mod_eq_of_lt (by omega))
    have hfit : Memory.below B.length (Memory.ofBytes .output 0 B) :=
      Nat.zero_add B.length ▸ Memory.ofBytes_below B
    exact {
      params := h.params
      status := by simp [StatusInv]
      phase := by simp [PhaseInv]
      outLen := ⟨by simp, hout.trans_le hB⟩
      buffers := ⟨hwf, hbelow, Memory.ofBytes_wf B, fun c hc => (hfit c hc).trans_le hB⟩
      outBuf := fun _ => hout ▸ hfit
      datapath := hdp }
  | absent c =>
    exact {
      params := h.params
      status := ⟨by simp, by simp, by simp, fun _ _ => causeCode_ne_zero c, causeCode_le c⟩
      phase := by simp [PhaseInv]
      outLen := by simp [OutLenInv]
      buffers := ⟨hwf, hbelow, by simp [Memory.wf], by simp [Memory.below]⟩
      outBuf := by simp [OutBufInv, Memory.below]
      datapath := hdp }

theorem engineStep_keeps_inv {s : State} (h : Inv s) : Inv (engineStep s) := by
  obtain ⟨-, he⟩ | ⟨op, -, he⟩ := engineStep_cases s <;> rw [he]
  · exact h
  · exact complete_keeps_inv h fun _ hB => result_value_length hB

/-- A redraw of the hidden datapath stays within its limits, and an idle block draws none (R54, R55). -/
theorem settle_keeps_inv {s : State} (h : Inv s) : Inv (settle s) := by
  unfold settle
  split
  case h_1 => exact h
  case h_2 op hp =>
    exact { h with datapath := (datapathInv_of_run (by exact hp)).2 (freeDatapath_legal ..) }

/-- Reset empties every register and OUT_BUF and leaves the parameter alone (R350, R351). -/
theorem resetEvent_keeps_inv {s : State} (h : Inv s) : Inv (resetEvent s) where
  params := h.params
  status := by simp [StatusInv, State.reset]
  phase := by simp [PhaseInv, State.reset]
  outLen := by simp [OutLenInv, State.reset]
  buffers := by simp [BufferInv, State.reset, Memory.wf, Memory.below]
  outBuf := by simp [OutBufInv, State.reset, Memory.below]
  datapath := rfl

/-! ## The step -/

/-- Settles O54: each thing a step can do keeps the invariant. -/
theorem stepKeepsInvariant : Obligations.StepKeepsInvariant := by
  unfold Obligations.StepKeepsInvariant
  intro s t hs hstep
  have h : Inv { s with schedule := s.schedule.tail } := hs.of_invFields_eq rfl
  obtain rfl | rfl | ⟨u, hu, rfl | ⟨r, rfl⟩⟩ := step_cases hstep
  · exact settle_keeps_inv (engineStep_keeps_inv h)
  · exact resetEvent_keeps_inv h
  · exact settle_keeps_inv (hu.keeps_inv h)
  · exact settle_keeps_inv (respond_keeps_inv (hu.keeps_inv h))

end Sys2Proof.Machine

/-! PROOF. Nothing visible depends on the hidden datapath (R56): blank out the datapath and the draw
counter. The host's instructions commute with that blanking, the engine and the reset overwrite what
it blanks, and a redraw stays inside it; so a step shows the same from a state and from its blanked
copy. -/

namespace Sys2Proof.Machine

/-! ## The visible part of a state -/

/-- The state with the hidden datapath and the draw counter blanked out: what is left can matter to
the outside. -/
def visible (s : State) : State := { s with datapath := Datapath.zero, draws := 0 }

theorem visible_visible (s : State) : visible (visible s) = visible s := rfl

/-- States differ only in the hidden datapath exactly when they show the same. -/
theorem sameButDatapath_iff {s t : State} : SameButDatapath s t ↔ visible t = visible s := by
  constructor
  · intro h
    rw [h]
    rfl
  · intro h
    cases s; cases t
    simp only [visible, State.mk.injEq] at h
    simp only [SameButDatapath, State.mk.injEq]
    simpa using h

/-! ## The host's instructions -/

theorem presentCommand_visible {f : State → State} {s : State} (hf : f (visible s) = visible (f s)) :
    presentCommand f (visible s) = visible (presentCommand f s) := by
  unfold presentCommand
  rw [show (visible s).busy = s.busy from rfl]
  split
  · rfl
  · exact hf

theorem inputWrite_visible {f : State → State} {s : State} (hf : f (visible s) = visible (f s)) :
    inputWrite f (visible s) = visible (inputWrite f s) := by
  unfold inputWrite
  rw [show (visible s).busy = s.busy from rfl]
  split
  · rfl
  · exact hf

theorem dispatch_visible (cw : Word) (s : State) : dispatch cw (visible s) = visible (dispatch cw s) := by
  refine presentCommand_visible ?_
  split_ifs <;> rfl

theorem writeTarget_visible (n : Width) (v : Word) (s : State) (tgt : Target) :
    writeTarget n v (visible s) tgt = visible (writeTarget n v s tgt) := by
  cases tgt with
  | reg r =>
    cases r with
    | cmd => exact dispatch_visible v s
    | present => exact inputWrite_visible (f := writePresent v) rfl
    | keyLen => exact inputWrite_visible (f := fun t => { t with keyLen := v }) rfl
    | dataLen => exact inputWrite_visible (f := fun t => { t with dataLen := v }) rfl
    | key j => exact inputWrite_visible (f := writeKey j v) rfl
    | _ => rfl
  | input i => exact inputWrite_visible (f := fun t => { t with inBuf := storeIn v i n.bytes t.inBuf }) rfl
  | output i => rfl

theorem readTarget_visible (n : Width) (s : State) (tgt : Target) :
    readTarget (visible s) n tgt = readTarget s n tgt := by
  cases tgt with
  | reg r => cases r <;> rfl
  | input i | output i => rfl

theorem hostRead_visible (n : Width) (off : Offset) (s : State) :
    hostRead n off (visible s) = visible (hostRead n off s) := by
  unfold hostRead
  rw [show (visible s).maxFrame = s.maxFrame from rfl]
  split
  · rfl
  · rw [readTarget_visible]
    rfl

theorem hostWrite_visible (n : Width) (off : Offset) (v : Word) (s : State) :
    hostWrite n off v (visible s) = visible (hostWrite n off v s) := by
  unfold hostWrite
  rw [show (visible s).maxFrame = s.maxFrame from rfl]
  split
  · rfl
  · rw [writeTarget_visible]
    rfl

/-- An instruction neither reads nor writes the hidden datapath. -/
theorem exec_visible (i : Instr) (s : State) : exec i (visible s) = mapNext visible (exec i s) := by
  have answer {u v : State} (h : u = visible v) :
      Host.Outcome.next (φ := Fault) (ρ := Refusal) (respond .ok u) =
        mapNext visible (.next (respond .ok v)) := h ▸ rfl
  cases i with
  | nop | encrypt | decrypt | illegal op rsvd => exact answer (presentCommand_visible rfl)
  | rd8 off | rd16 off | rd32 off => exact congrArg Host.Outcome.next (hostRead_visible _ off s)
  | wr8 off d | wr16 off d | wr32 off d => exact congrArg Host.Outcome.next (hostWrite_visible _ off _ s)

/-! ## The engine, the reset input and the redraw -/

theorem visible_settle (s : State) : visible (settle s) = visible s := by
  unfold settle
  split <;> rfl

theorem mapNext_visible_settle (o : Host.Outcome State Fault Refusal) :
    mapNext visible (mapNext settle o) = mapNext visible o := by
  cases o with
  | next s => exact congrArg Host.Outcome.next (visible_settle s)
  | fault r | refused r => rfl

theorem mapNext_visible_visible (o : Host.Outcome State Fault Refusal) :
    mapNext visible (mapNext visible o) = mapNext visible o := by
  cases o <;> rfl

theorem visible_complete_visible (res : Result) (s : State) :
    visible (complete res (visible s)) = visible (complete res s) := by
  cases res <;> rfl

/-- The result reads operands only, and completion overwrites the datapath with zero (R57, R112). -/
theorem visible_engineStep_visible (s : State) :
    visible (engineStep (visible s)) = visible (engineStep s) := by
  unfold engineStep
  rw [show (visible s).phase = s.phase from rfl]
  split
  · rfl
  · exact visible_complete_visible ..

/-! ## The step -/

/-- Around an instruction, too, a step shows the same. -/
theorem mapNext_settle_exec_visible (i : Instr) (s : State) :
    mapNext visible (mapNext settle (exec i (visible s))) =
      mapNext visible (mapNext settle (exec i s)) := by
  rw [mapNext_visible_settle, mapNext_visible_settle, exec_visible, mapNext_visible_visible]

theorem runEvent_visible (s : State) (e : Event) :
    mapNext visible (runEvent (visible s) e) = mapNext visible (runEvent s e) := by
  cases e with
  | host bytes =>
    simp only [runEvent, runBytes]
    split
    · exact mapNext_settle_exec_visible _ s
    · rfl
  | bus write n addr data =>
    simp only [runEvent, runBus]
    split
    · exact mapNext_settle_exec_visible _ s
    · simp only [mapNext, visible_settle, visible_visible]
  | engine => simp only [runEvent, mapNext, visible_settle, visible_engineStep_visible]
  | reset => rfl

/-- What a step shows is a function of what the state shows. -/
theorem step_visible (s : State) : mapNext visible (step (visible s)) = mapNext visible (step s) := by
  unfold step nextStep
  rw [show (visible s).schedule = s.schedule from rfl]
  split
  · exact runEvent_visible s .engine
  · exact runEvent_visible { s with schedule := _ } _

/-- Settles O57: states that show the same step to states that show the same. -/
theorem datapathUnobservable : Obligations.DatapathUnobservable := by
  unfold Obligations.DatapathUnobservable
  intro s t s' hst hs
  have hshow : mapNext visible (step t) = .next (visible s') := by
    rw [← step_visible, sameButDatapath_iff.1 hst, step_visible, hs]
    rfl
  cases ht : step t with
  | next t' =>
    rw [ht] at hshow
    exact ⟨t', rfl, sameButDatapath_iff.2 (Host.Outcome.next.inj hshow)⟩
  | fault r | refused r =>
    rw [ht] at hshow
    cases hshow

end Sys2Proof.Machine

/-! PROOF. What completion leaves alone, and what starts and ends a command: the engine's turn, a
reset and the acceptance of a command are the only things that move BUSY or raise DONE. -/

namespace Sys2Proof.Machine

/-! ## Completion -/

theorem inByte_complete (res : Result) (s : State) (i : Nat) : inByte (complete res s) i = inByte s i := by
  simp [inByte]

/-- Settles O35: completion publishes the result, ends the command and zeroizes, and touches nothing else. -/
theorem completionFrame : Obligations.CompletionFrame := by
  unfold Obligations.CompletionFrame
  intro s
  obtain ⟨hp, he⟩ | ⟨op, hp, he⟩ := engineStep_cases s <;> rw [he]
  · simp [hp]
  · simp [inByte_complete, irq]

/-- The engine reads no schedule: taking an event off it before or after the turn is the same. -/
theorem engineStep_withSchedule (s : State) (evs : List Event) :
    engineStep { s with schedule := evs } = { engineStep s with schedule := evs } := by
  obtain ⟨hp, he⟩ | ⟨op, hp, he⟩ := engineStep_cases s <;> rw [he]
  · simp only [engineStep, hp]
  · simp only [engineStep, hp]
    change complete (commandResult op s) _ = _
    cases commandResult op s <;> rfl

/-- A redraw and the loss of an event leave the result as it is. -/
theorem sameOutput_settle_withSchedule (s : State) (evs : List Event) :
    SameOutput s (settle { s with schedule := evs }) where
  done := by simp
  value := by simp
  cause := by simp
  outLen := by simp
  out := by simp [outByte]

/-! ## What a step can do, with the event that does it -/

/-- A performed instruction is an effect with its response, and then the redraw. -/
theorem mapNext_settle_exec_effect {i : Instr} {s t : State} (h : mapNext settle (exec i s) = .next t) :
    ∃ u r, Effect s u ∧ t = settle { u with response := r } := by
  obtain ⟨u, r, hu, he⟩ := exec_effect i s
  rw [he] at h
  cases h
  exact ⟨u, some r, hu, rfl⟩

/-- The next state of a step is the engine's turn, an effect with its response, or a reset, and a
reset comes only from the reset input. -/
theorem step_cases_by_event {s t : State} (h : step s = .next t) :
    (t = settle (engineStep { s with schedule := s.schedule.tail })) ∨
    (∃ rest, s.schedule = .reset :: rest ∧ t = resetEvent { s with schedule := rest }) ∨
    (∃ u r, Effect { s with schedule := s.schedule.tail } u ∧ t = settle { u with response := r }) := by
  unfold step nextStep at h
  split at h
  case h_1 hs =>
    have htail : { s with schedule := s.schedule.tail } = s := by rw [hs, List.tail_nil, ← hs]
    rw [htail]
    exact .inl (Host.Outcome.next.inj h).symm
  case h_2 e rest hs =>
    rw [hs, List.tail_cons]
    cases e with
    | engine => exact .inl (Host.Outcome.next.inj h).symm
    | reset => exact .inr (.inl ⟨rest, rfl, (Host.Outcome.next.inj h).symm⟩)
    | host bytes =>
      simp only [runEvent, runBytes] at h
      split at h
      · exact .inr (.inr (mapNext_settle_exec_effect h))
      · cases h
    | bus write n addr data =>
      simp only [runEvent, runBus] at h
      split at h
      · exact .inr (.inr (mapNext_settle_exec_effect h))
      · exact .inr (.inr ⟨_, s.response, .nothing _, (Host.Outcome.next.inj h).symm⟩)

/-- An effect that is no acceptance moves neither BUSY nor DONE and raises no interrupt. -/
theorem Effect.accepted_or_keeps_done {s u : State} (e : Effect s u) :
    (∃ op, s.busy = false ∧ u = accept op s) ∨
    (u.busy = s.busy ∧ u.done = s.done ∧ (u.irqDone = true → s.irqDone = true)) := by
  cases e with
  | accepted op hb => exact .inl ⟨op, hb, rfl⟩
  | irq v =>
    have hclear : clearBy s.irqDone v 0 = true → s.irqDone = true := fun h => (Bool.and_eq_true_iff.1 h).1
    exact .inr ⟨rfl, rfl, hclear⟩
  | _ => exact .inr ⟨rfl, rfl, id⟩

/-! ## What starts and ends a command -/

/-- Acceptance, its response and the redraw leave the operands as they stood (R232). -/
theorem sameInputs_settle_accept (s : State) (op : Op) (evs : List Event) (r : Option Response) :
    SameInputs s (settle { accept op { s with schedule := evs } with response := r }) where
  maxFrame := by simp
  keyPresent := by simp
  dataPresent := by simp
  keyLen := by simp
  dataLen := by simp
  key := by simp
  frame := by simp [inByte]

/-- Settles O56: the engine's turn ends a command and raises DONE, an acceptance raises BUSY, and a
reset clears all three flags. -/
theorem onlyCompletionEndsCommand : Obligations.OnlyCompletionEndsCommand := by
  unfold Obligations.OnlyCompletionEndsCommand
  intro s t hinv hstep
  obtain rfl | ⟨rest, hs, rfl⟩ | ⟨u, r, hu, rfl⟩ := step_cases_by_event hstep
  · rw [engineStep_withSchedule]
    obtain ⟨hp, he⟩ | ⟨op, hp, he⟩ := engineStep_cases s
    · rw [he]
      simp +contextual
    · have hb : s.busy = true := hinv.phase.2 (by simp [hp])
      have hout := sameOutput_settle_withSchedule (engineStep s) s.schedule.tail
      refine ⟨fun _ => ⟨hb, ?_, ?_, ?_, op, hp, hout⟩, by simp [hb], fun _ _ => .inl ⟨?_, ?_⟩⟩ <;>
        simp [he]
  · exact ⟨by simp [State.reset], by simp [State.reset], fun _ _ => .inr ⟨rest, hs⟩⟩
  · obtain ⟨op, -, rfl⟩ | ⟨hbusy, hdone, hirq⟩ := hu.accepted_or_keeps_done
    · exact ⟨by simp, fun _ _ => ⟨op, by simp, by simp, by simp, sameInputs_settle_accept ..⟩, by simp⟩
    · simp only [settle_done, settle_irqDone, settle_busy, hbusy, hdone]
      refine ⟨?_, by simp +contextual, by simp +contextual⟩
      rintro (⟨h0, h1⟩ | ⟨h0, h1⟩)
      · exact absurd h1 (by simp [h0])
      · exact absurd (hirq h1) (by simp [h0])

/-! ## Commands through CMD -/

/-- A command instruction is the dispatch of its word, with response OK (R231, log 3). -/
theorem exec_decodeCommand (cw : Word) (s : State) :
    exec (decodeCommand cw) s = .next (respond .ok (dispatch cw s)) := by
  unfold decodeCommand dispatch
  split_ifs <;> rfl

/-- Settles O17: both are the dispatch of the word. -/
theorem commandIsCmdWrite : Obligations.CommandIsCmdWrite := by
  unfold Obligations.CommandIsCmdWrite
  intro cw s
  rw [exec_decodeCommand]
  exact exec_wr32_reg (off := 0x0000C) (r := .cmd) (by decide) (by decide) rfl

end Sys2Proof.Machine

/-! PROOF. The key registers cannot be read (R43, R93): a write's response says only whether the
access is legal, and no read target holds a key word. -/

namespace Sys2Proof.Machine

/-- KEY0 .. KEY7 read 0, and nothing else that can be read depends on them (R282). -/
theorem readTarget_withKey (n : Width) (s : State) (k : Vector Word 8) (tgt : Target) :
    readTarget { s with key := k } n tgt = readTarget s n tgt := by
  cases tgt with
  | reg r => cases r <;> rfl
  | input i | output i => rfl

theorem hostRead_response_withKey (n : Width) (off : Offset) (s : State) (k : Vector Word 8) :
    (hostRead n off { s with key := k }).response = (hostRead n off s).response := by
  simp only [hostRead, readTarget_withKey]
  split <;> rfl

theorem hostWrite_response_withKey (n : Width) (off : Offset) (v : Word) (s : State)
    (k : Vector Word 8) :
    (hostWrite n off v { s with key := k }).response = (hostWrite n off v s).response := by
  simp only [hostWrite]
  split <;> rfl

/-- Settles O58: a command answers OK, a write by its legality, a read by its target. -/
theorem keyCannotBeRead : Obligations.KeyCannotBeRead := by
  unfold Obligations.KeyCannotBeRead
  intro i s t k h
  cases i with
  | nop | encrypt | decrypt | illegal op rsvd =>
    cases h
    exact ⟨_, rfl, rfl⟩
  | rd8 off | rd16 off | rd32 off =>
    cases h
    exact ⟨_, rfl, hostRead_response_withKey _ off s k⟩
  | wr8 off d | wr16 off d | wr32 off d =>
    cases h
    exact ⟨_, rfl, hostWrite_response_withKey _ off _ s k⟩

end Sys2Proof.Machine

/-! PROOF. The step at a scheduled event (R94): the bytes of an instruction are that instruction, and
a bus address is the transaction at its offset when it reaches the block (R81). -/

namespace Sys2Proof.Machine

/-! ## The step at the first event -/

/-- A step takes the first event of the schedule (log 1). -/
theorem step_of_schedule_cons {s : State} {e : Event} {rest : List Event} (hs : s.schedule = e :: rest) :
    step s = runEvent { s with schedule := rest } e := by
  simp only [step, nextStep, hs]

/-- Bytes that decode are the instruction they decode to (R117). -/
theorem runBytes_of_decode {bytes : List Byte} {i : Instr} (hd : decode bytes = .ok i) (s : State) :
    runBytes bytes s = mapNext settle (exec i s) := by
  simp only [runBytes, hd]

/-- Settles O7: the step takes the event off the schedule and performs what its bytes decode to. -/
theorem stepRunsDecodedInstruction : Obligations.StepRunsDecodedInstruction := by
  unfold Obligations.StepRunsDecodedInstruction
  intro s bytes rest i hs hd
  exact (step_of_schedule_cons hs).trans (runBytes_of_decode hd _)

/-! ## Bus addresses -/

/-- An address inside the aperture reaches the block at its distance from BASE (R81). -/
theorem busOffset_base_add {off : Nat} (h : off < 0x30000) :
    busOffset (Config.base + off) = some (BitVec.ofNat 18 off) := by
  rw [busOffset, Nat.add_sub_cancel_left, if_pos ⟨Nat.le_add_right .., h⟩]

/-- An address below or past the aperture does not reach the block (R81). -/
theorem busOffset_outside {a : Nat} (h : a < Config.base ∨ Config.base + 0x30000 ≤ a) :
    busOffset a = none := by
  rw [busOffset, if_neg (by omega)]

/-- Settles O10: the step is the bus access of its event, and the address decode says whether that
access reaches the block. -/
theorem busAddressReachesOffset : Obligations.BusAddressReachesOffset := by
  unfold Obligations.BusAddressReachesOffset
  intro s write n data rest
  constructor
  · intro off hoff hs
    simp only [step_of_schedule_cons hs, runEvent, runBus, busOffset_base_add hoff]
  · intro a ha hs
    simp only [step_of_schedule_cons hs, runEvent, runBus, busOffset_outside ha]

end Sys2Proof.Machine

/-! PROOF. Reads of the buffers and registers: a read changes only the held response, on which no
read depends (R91), and a word stored in IN_BUF is read back in whole or in part by each width
(R85, R86). -/

namespace Sys2Proof.Machine

/-! ## A read and the held response -/

/-- The read transaction of each width; its DATA is ignored (log 6). -/
theorem exec_accessInstr_read (n : Width) (off : Offset) (data : Word) (s : State) :
    exec (accessInstr false n off data) s = .next (hostRead n off s) := by
  cases n <;> rfl

/-- A read ends with some response and changes nothing else (R280). -/
theorem hostRead_eq_answering (n : Width) (off : Offset) (s : State) :
    ∃ r, hostRead n off s = s.answering r := by
  unfold hostRead
  split
  · exact ⟨.busError, rfl⟩
  · exact ⟨.data n _, rfl⟩

theorem readTarget_answering (n : Width) (r : Response) (s : State) (tgt : Target) :
    readTarget (s.answering r) n tgt = readTarget s n tgt := by
  cases tgt with
  | reg name => cases name <;> rfl
  | input i | output i => rfl

/-- A read neither sees nor keeps the response held before it. -/
theorem hostRead_answering (n : Width) (off : Offset) (r : Response) (s : State) :
    hostRead n off (s.answering r) = hostRead n off s := by
  simp only [hostRead, readTarget_answering]
  rfl

/-- Settles O41: a read replaces the held response only, and the next read does not depend on it. -/
theorem readsChangeNothing : Obligations.ReadsChangeNothing := by
  unfold Obligations.ReadsChangeNothing
  intro n off s
  obtain ⟨r, hr⟩ := hostRead_eq_answering n off s
  refine ⟨r, ?_, ?_⟩
  · rw [exec_accessInstr_read, hr]
  · rw [exec_accessInstr_read, hostRead_answering, hr]

/-! ## A stored word and the reads of its parts -/

/-- A legal write inside IN_BUF while idle stores the low bytes (R283). -/
theorem hostWrite_input_idle {s : State} {n : Width} {i : Nat} {v : Word} (hb : s.busy = false)
    (hi : i < 0x10000) (ha : (0x10000 + i) % n.bytes = 0) (hm : i + n.bytes ≤ s.maxFrame) :
    hostWrite n (BitVec.ofNat 18 (0x10000 + i)) v s =
      respond .ok { s with inBuf := storeIn v i n.bytes s.inBuf } := by
  rw [hostWrite_input hi ha hm, inputWrite, if_neg (by simp [hb])]

/-- IN_BUF after a store: the bytes of the value where it was stored, the old bytes elsewhere
(R48, R85). -/
theorem inByte_storeIn {s : State} (h : Memory.wf .input s.inBuf) (v : Word) (i n a : Nat) :
    inByte { s with inBuf := storeIn v i n s.inBuf } a =
      if i ≤ a ∧ a < i + n then wordByte v (a - i) else inByte s a := by
  simp only [inByte, lookup_storeIn h]
  split <;> rfl

/-- The little-endian value of consecutive bytes of a word is that part of the word (R85). -/
theorem leValue_wordByte (v : Word) (k n : Nat) :
    leValue (fun j => wordByte v (k + j)) n = (v.extractLsb' (8 * k) (8 * n)).setWidth 32 := by
  induction n with
  | zero => simp [leValue]
  | succ n ih =>
    have hdisjoint : (v.extractLsb' (8 * k) (8 * n)).setWidth 32 &&&
        ((wordByte v (k + n)).setWidth 32 <<< (8 * n)) = 0#32 := by
      ext j hj
      by_cases hlow : j < 8 * n <;> simp [hlow]
    rw [leValue, ih, BitVec.add_eq_or_of_and_eq_zero _ _ hdisjoint]
    ext j hj
    by_cases hlow : j < 8 * n
    · have hin : j < 8 * (n + 1) := by omega
      simp [hlow, hin]
    · have hbit : 8 * (k + n) + (j - 8 * n) = 8 * k + j := by omega
      have hin : j - 8 * n < 8 ↔ j < 8 * (n + 1) := by omega
      simp [wordByte, hlow, hin, hbit]

/-- Where IN_BUF holds a word at an aligned index, an aligned read inside that word gives its part of
it (R83, R85). -/
theorem hostRead_part_of_word {t : State} {i k : Nat} {n : Width} {d : Word}
    (hword : ∀ j < 4, inByte t (i + j) = wordByte d j) (hi : i < 0x10000) (h4 : i % 4 = 0)
    (hm : i + 4 ≤ t.maxFrame) (hk : k % n.bytes = 0) (hkn : k + n.bytes ≤ 4) :
    hostRead n (BitVec.ofNat 18 (0x10000 + i + k)) t =
      t.answering (.data n ((d.extractLsb' (8 * k) (8 * n.bytes)).setWidth 32)) := by
  have hinside : i + k < 0x10000 := by have := Width.bytes_pos n; omega
  have halign : (0x10000 + (i + k)) % n.bytes = 0 := by
    cases n <;> simp only [Width.bytes] at hk ⊢ <;> omega
  have hbytes : leValue (fun j => inByte t (i + k + j)) n.bytes =
      leValue (fun j => wordByte d (k + j)) n.bytes :=
    leValue_congr fun j hj => by rw [Nat.add_assoc]; exact hword (k + j) (by omega)
  rw [Nat.add_assoc, hostRead_input hinside halign (by omega), hbytes, leValue_wordByte]
  rfl

/-- Settles O50: the store leaves the word's bytes in IN_BUF, and each read gives its part of them. -/
theorem mixedWidthAccess : Obligations.MixedWidthAccess := by
  unfold Obligations.MixedWidthAccess
  intro s i d hinv hb hi h4 hm
  obtain ⟨hwf, -⟩ := hinv.buffers
  have hstore := hostWrite_input_idle (n := .four) (v := d) hb hi (by simp only [Width.bytes]; omega) hm
  refine ⟨_, congrArg Host.Outcome.next hstore, ?_⟩
  have hword : ∀ j < 4, inByte (respond .ok { s with inBuf := storeIn d i 4 s.inBuf }) (i + j) =
      wordByte d j := fun j hj => by
    refine (inByte_storeIn hwf d i 4 (i + j)).trans ?_
    rw [if_pos (by omega), Nat.add_sub_cancel_left]
  refine ⟨fun k hk => ?_, fun k hk => ?_, ?_⟩
  · have hread := hostRead_part_of_word (n := .one) hword hi h4 hm (Nat.mod_one k) hk
    exact congrArg Host.Outcome.next hread
  · have hin : 2 * k + 2 ≤ 4 := by omega
    have hread := hostRead_part_of_word (n := .two) hword hi h4 hm (Nat.mul_mod_right 2 k) hin
    rw [show 16 * k = 8 * (2 * k) by omega]
    exact congrArg Host.Outcome.next hread
  · have hwhole : (d.extractLsb' (8 * 0) (8 * Width.four.bytes)).setWidth 32 = d := by simp [Width.bytes]
    have hread := hostRead_part_of_word (n := .four) (k := 0) hword hi h4 hm rfl le_rfl
    rw [hwhole] at hread
    exact congrArg Host.Outcome.next hread

end Sys2Proof.Machine

/-! PROOF. The encoding (R110, R117). A command word is `joinCommand` of its fields, and the
transaction words are exactly the words `joinTxn` builds from a direction, a width, an offset and
DATA; each statement about decoding is then one about those two forms. -/

namespace Sys2Proof.Machine

/-! ## Command words -/

/-- A word that is none of the three commands is ILLEGAL with its fields (R111). -/
theorem decodeCommand_of_ne {cw : Word} (h0 : cw ≠ 0#32) (h1 : cw ≠ 1#32) (h2 : cw ≠ 2#32) :
    decodeCommand cw = .illegal (cw.extractLsb' 0 4) (cw.extractLsb' 4 28) := by
  rw [decodeCommand, if_neg h0, if_neg h1, if_neg h2]

theorem wellFormed_illegal {op : BitVec 4} {rsvd : BitVec 28} :
    (Instr.illegal op rsvd).wellFormed = true ↔
      joinCommand op rsvd ≠ 0#32 ∧ joinCommand op rsvd ≠ 1#32 ∧ joinCommand op rsvd ≠ 2#32 := by
  simp [Instr.wellFormed, and_assoc]

/-- Settles O1: the four branches of the decode, and the four bytes joined again. -/
theorem commandWordDecode : Obligations.CommandWordDecode := by
  unfold Obligations.CommandWordDecode
  intro cw
  refine ⟨?_, ?_, ?_, decodeCommand_of_ne, decode_commandBytes cw⟩ <;> rintro rfl <;> rfl

/-- Settles O4: the three commands by evaluation, every other word by its two fields. -/
theorem encodeOfDecodedCommand : Obligations.EncodeOfDecodedCommand := by
  unfold Obligations.EncodeOfDecodedCommand
  intro cw
  by_cases h0 : cw = 0#32
  · subst h0; exact ⟨rfl, rfl, rfl⟩
  by_cases h1 : cw = 1#32
  · subst h1; exact ⟨rfl, rfl, rfl⟩
  by_cases h2 : cw = 2#32
  · subst h2; exact ⟨rfl, rfl, rfl⟩
  rw [decodeCommand_of_ne h0 h1 h2, wellFormed_illegal, encode, joinCommand_fields]
  exact ⟨⟨h0, h1, h2⟩, rfl, rfl⟩

/-! ## Transaction words -/

/-- Field `SZ` of an access (R117). -/
def sizeField : Width → BitVec 2
  | .one => 0#2
  | .two => 1#2
  | .four => 2#2

/-- Every value of `SZ` but 3 is a width. -/
theorem exists_sizeField {sz : BitVec 2} (h : sz ≠ 3#2) : ∃ n, sz = sizeField n := by
  have hcases : ∀ sz : BitVec 2, sz = 0#2 ∨ sz = 1#2 ∨ sz = 2#2 ∨ sz = 3#2 := by decide
  obtain rfl | rfl | rfl | rfl := hcases sz
  · exact ⟨.one, rfl⟩
  · exact ⟨.two, rfl⟩
  · exact ⟨.four, rfl⟩
  · exact absurd rfl h

/-- Bit `i` of a word is bit `i - start` of the field that holds it. -/
theorem getLsbD_field {w : TxnWord} {start len i : Nat} (h : start ≤ i) (hi : i < start + len) :
    (w.extractLsb' start len).getLsbD (i - start) = w.getLsbD i := by
  rw [BitVec.getLsbD_extractLsb', decide_eq_true (by omega), Bool.true_and, Nat.add_sub_cancel' h]

/-- A word whose `RSVD` is 0 is put together from its other fields (R117). -/
theorem joinTxn_fields {w : TxnWord} (h : txnRsvd w = 0#11) :
    joinTxn (txnWrite w) (txnSize w) (txnOffset w) (txnData w) = w :=
  BitVec.eq_of_getLsbD_eq fun i hi => by
    rw [getLsbD_joinTxn]
    split_ifs
    · exact getLsbD_field (Nat.zero_le i) (by omega)
    · exact getLsbD_field (by omega) (by omega)
    · have hbit : (txnRsvd w).getLsbD (i - 50) = w.getLsbD i := getLsbD_field (by omega) (by omega)
      rw [← hbit, h, BitVec.getLsbD_zero]
    · exact getLsbD_field (by omega) (by omega)
    · exact getLsbD_field (by omega) (by omega)

/-- The transaction words are those of the accesses: `SZ` names a width and `RSVD` is 0 (R117). -/
theorem exists_joinTxn {w : TxnWord} (h : ¬(txnSize w = 3#2 ∨ txnRsvd w ≠ 0#11)) :
    ∃ write n, w = joinTxn (BitVec.ofBool write) (sizeField n) (txnOffset w) (txnData w) := by
  obtain ⟨hsize, hrsvd⟩ := not_or.1 h
  obtain ⟨n, hn⟩ := exists_sizeField hsize
  have hwrite : ∀ x : BitVec 1, ∃ b, x = BitVec.ofBool b := by decide
  obtain ⟨write, hw⟩ := hwrite (txnWrite w)
  exact ⟨write, n, by rw [← hn, ← hw, joinTxn_fields (not_not.1 hrsvd)]⟩

/-- The word of an access decodes to that access (R117). -/
theorem decodeTxn_joinTxn (write : Bool) (n : Width) (off : Offset) (data : Word) :
    decodeTxn (joinTxn (BitVec.ofBool write) (sizeField n) off data) =
      .ok (accessInstr write n off data) := by
  cases write <;> cases n <;>
    simp [decodeTxn, sizeField, accessInstr, BitVec.setWidth_eq_extractLsb']

/-- `SZ = 3` and a nonzero `RSVD` are rejected (R117). -/
theorem decodeTxn_error {w : TxnWord} (h : txnSize w = 3#2 ∨ txnRsvd w ≠ 0#11) :
    ∃ why, decodeTxn w = .error why := by
  unfold decodeTxn
  split_ifs with hsize hrsvd
  · exact ⟨_, rfl⟩
  · exact ⟨_, rfl⟩
  all_goals exact absurd h (not_or.2 ⟨hsize, hrsvd⟩)

/-- Settles O3: a command's fields and an access's fields are read back from the joined word. -/
theorem decodeOfEncode : Obligations.DecodeOfEncode := by
  unfold Obligations.DecodeOfEncode
  intro i hwf
  have access (write n off data) :
      decode (txnBytes (joinTxn (BitVec.ofBool write) (sizeField n) off data)) =
        .ok (accessInstr write n off data) :=
    (decode_txnBytes _).trans (decodeTxn_joinTxn write n off data)
  cases i with
  | nop | encrypt | decrypt => exact decode_commandBytes _
  | illegal op rsvd =>
    obtain ⟨h0, h1, h2⟩ := wellFormed_illegal.1 hwf
    rw [encode, decode_commandBytes, decodeCommand_of_ne h0 h1 h2, joinCommand_op, joinCommand_rsvd]
  | rd8 off => exact access false .one off 0#32
  | rd16 off => exact access false .two off 0#32
  | rd32 off => exact access false .four off 0#32
  | wr8 off d => exact (access true .one off (d.setWidth 32)).trans (by simp [accessInstr])
  | wr16 off d => exact (access true .two off (d.setWidth 32)).trans (by simp [accessInstr])
  | wr32 off d => exact access true .four off d

/-- A word below `2 ^ k` is its own low `k` bits. -/
theorem setWidth_setWidth_of_lt {d : Word} {k : Nat} (h : d.toNat < 2 ^ k) :
    (d.setWidth k).setWidth 32 = d :=
  BitVec.eq_of_toNat_eq <| by
    rw [BitVec.toNat_setWidth, BitVec.toNat_setWidth, Nat.mod_eq_of_lt h, Nat.mod_eq_of_lt d.isLt]

/-- Settles O5: a word that decodes is the word of an access, and zero ignored bits are those that
encoding the access writes. -/
theorem encodeOfDecodedTransaction : Obligations.EncodeOfDecodedTransaction := by
  unfold Obligations.EncodeOfDecodedTransaction
  intro w i hdecode hread hwrite
  rw [decode_txnBytes] at hdecode
  have hlegal : ¬(txnSize w = 3#2 ∨ txnRsvd w ≠ 0#11) := fun h => by
    obtain ⟨why, herr⟩ := decodeTxn_error h
    cases hdecode.symm.trans herr
  obtain ⟨write, n, hw⟩ := exists_joinTxn hlegal
  generalize txnOffset w = off, txnData w = data at hw hread hwrite
  subst hw
  obtain rfl := Except.ok.inj ((decodeTxn_joinTxn write n off data).symm.trans hdecode)
  simp only [txnWrite_joinTxn, txnSize_joinTxn] at hread hwrite
  cases write with
  | false =>
    obtain rfl := hread rfl
    cases n <;> rfl
  | true =>
    obtain ⟨hone, htwo⟩ := hwrite rfl
    cases n with
    | one => rw [accessInstr, encode, setWidth_setWidth_of_lt (hone rfl)]; rfl
    | two => rw [accessInstr, encode, setWidth_setWidth_of_lt (htwo rfl)]; rfl
    | four => rfl

/-! ## The step at encoded words -/

/-- Bytes that decode to nothing are refused with the decoder's reason (R117). -/
theorem runBytes_of_error {bytes : List Byte} {why : DecodeError} (h : decode bytes = .error why)
    (s : State) : runBytes bytes s = .refused (.notATransaction why) := by
  simp only [runBytes, h]

/-- Bytes that decode are never refused: every instruction completes (R314). -/
theorem runBytes_ne_refused {bytes : List Byte} {i : Instr} (h : decode bytes = .ok i) (s : State)
    (r : Refusal) : runBytes bytes s ≠ .refused r := by
  obtain ⟨t, resp, -, he⟩ := exec_effect i s
  rw [runBytes_of_decode h, he]
  exact nofun

/-- Settles O6: the step runs the word's bytes, and the two conditions are those the decoder rejects. -/
theorem nonTransactionsRefused : Obligations.NonTransactionsRefused := by
  unfold Obligations.NonTransactionsRefused
  intro s w rest hs
  rw [step_of_schedule_cons hs]
  constructor
  · intro h
    obtain ⟨why, herr⟩ := decodeTxn_error h
    exact ⟨why, runBytes_of_error ((decode_txnBytes w).trans herr) _⟩
  · rintro ⟨why, hrefused⟩
    by_contra hlegal
    obtain ⟨write, n, hw⟩ := exists_joinTxn hlegal
    have hdecode := decodeTxn_joinTxn write n (txnOffset w) (txnData w)
    rw [← hw, ← decode_txnBytes] at hdecode
    exact runBytes_ne_refused hdecode _ _ hrefused

/-- A table word names an instruction when its bytes decode to it. -/
theorem decode_of_decodeTableWord {nbits w : Nat} {i : Instr} (h : decodeTableWord nbits w = some i) :
    decode (tableBytes nbits w) = .ok i := by
  unfold decodeTableWord at h
  split at h
  · rwa [← Option.some.inj h]
  · cases h

/-- Settles O2: the eight words, evaluated. -/
theorem specWordsDecode : Obligations.SpecWordsDecode := by
  unfold Obligations.SpecWordsDecode
  decide

/-- Settles O8: the step takes the word's event off the schedule again and runs its instruction. -/
theorem fetchWordRunsInstruction : Obligations.FetchWordRunsInstruction := by
  unfold Obligations.FetchWordRunsInstruction
  intro s nbits w i h
  exact (step_of_schedule_cons (s := s.withFetchWord nbits w) rfl).trans
    (runBytes_of_decode (decode_of_decodeTableWord h) s)

end Sys2Proof.Machine

/-! PROOF. The pseudo-operations that load operands (R118): each key or frame word is one register
write or one store, so after `n` words the first `4 n` bytes are those of the sequence (R85, R88);
the length write then makes them the operand (R112). -/

namespace Sys2Proof.Machine

/-! ## Bytes of a sequence and of its words -/

/-- A byte of a little-endian word is the byte it was made of (R85). -/
theorem wordByte_leValue_four (f : Nat → Byte) {k : Nat} (hk : k < 4) : wordByte (leValue f 4) k = f k := by
  rw [leValue_four]
  refine BitVec.eq_of_getLsbD_eq fun i hi => ?_
  rw [wordByte, BitVec.getLsbD_extractLsb', decide_eq_true hi, Bool.true_and, getLsbD_joinFour]
  interval_cases k <;> simp (disch := omega) [if_pos, if_neg]

/-- Byte `i` of a sequence is byte `i mod 4` of its word `i div 4` (R88). -/
theorem wordByte_sequenceWord (bytes : List Byte) (i : Nat) :
    wordByte (sequenceWord bytes (i / 4)) (i % 4) = bytes.getD i 0 := by
  rw [sequenceWord, wordByte_leValue_four _ (Nat.mod_lt i (by decide)), Nat.div_add_mod]

/-- A store that holds the bytes of a sequence gives it back as an operand (R12, R112). -/
theorem bytesOf_eq {byte : Nat → Byte} {bytes : List Byte} (h : ∀ i < bytes.length, byte i = bytes.getD i 0) :
    bytesOf byte bytes.length = bytes := by
  refine List.ext_getElem (bytesOf_length ..) fun i _ hi => ?_
  simp only [bytesOf, List.getElem_map, List.getElem_range, h i hi, List.getD_eq_getElem _ _ hi]

theorem length_toNat {bytes : List Byte} {n : Nat} (h : bytes.length ≤ n) (hn : n < 2 ^ 32) :
    (BitVec.ofNat 32 bytes.length).toNat = bytes.length := by
  rw [BitVec.toNat_ofNat, Nat.mod_eq_of_lt (by omega)]

/-! ## One write after others -/

/-- While idle an input-side write takes effect (R283, R286). -/
theorem inputWrite_idle {f : State → State} {s : State} (hb : s.busy = false) : inputWrite f s = f s := by
  rw [inputWrite, if_neg (by simp [hb])]

/-- Instructions one after another: a last one after the others. -/
theorem performAll_concat {is : List Instr} {i : Instr} {s t u : State} (h : performAll is s = .next t)
    (hi : exec i t = .next u) : performAll (is ++ [i]) s = .next u := by
  simp only [performAll_append h, performAll, hi]

/-- KEYB after a write of one key word: the bytes of the word there, the old bytes elsewhere (R43). -/
theorem keyByte_writeKey (j : Fin 8) (v : Word) (s : State) (i : Nat) :
    keyByte (writeKey j v s) i = if i / 4 = j then wordByte v (i % 4) else keyByte s i := by
  simp only [keyByte, writeKey_key, Vector.toList_set]
  split_ifs with h
  · simp [h, List.getD]
  · simp [List.getD, Ne.symm h]

/-! ## LDKEY -/

/-- The first `n` words of a key, written while idle, are the first `4 n` key bytes (R88). -/
theorem performAll_keyWords {s : State} (hb : s.busy = false) (key : List Byte) {n : Nat} (hn : n ≤ 8) :
    ∃ k r, performAll ((List.range n).map fun j =>
        storeWord (BitVec.ofNat 18 (0x040 + 4 * j)) (sequenceWord key j)) s =
          .next { s with key := k, response := r } ∧
      ∀ i < 4 * n, keyByte { s with key := k } i = key.getD i 0 := by
  induction n with
  | zero => exact ⟨s.key, s.response, rfl, nofun⟩
  | succ n ih =>
    obtain ⟨k, r, hperform, hbytes⟩ := ih (by omega)
    have hreg : ∀ j : Fin 8, regAt (0x040 + 4 * j) = some (.key j) := by decide
    have hwrite := exec_wr32_reg (s := { s with key := k, response := r }) (v := sequenceWord key n)
      (by omega) (by omega) (hreg ⟨n, hn⟩)
    rw [writeReg, inputWrite_idle (by exact hb)] at hwrite
    refine ⟨k.set n (sequenceWord key n), some .ok, ?_, fun i hi => ?_⟩
    · rw [List.range_succ, List.map_append]
      exact performAll_concat hperform hwrite
    · refine (keyByte_writeKey ⟨n, hn⟩ (sequenceWord key n) { s with key := k } i).trans ?_
      split_ifs with hj
      · rw [← show i / 4 = n from hj]
        exact wordByte_sequenceWord key i
      · exact hbytes i (by have : i / 4 ≠ n := hj; omega)

/-- LDKEY makes the given bytes the key operand and changes nothing else (R118). -/
theorem performAll_expandLdkey {s : State} {key : List Byte} (hb : s.busy = false) (hlen : key.length ≤ 32) :
    ∃ is k, expandLdkey key = some is ∧
      performAll is s = .next { s with
        key := k, keyLen := BitVec.ofNat 32 key.length, response := some .ok } ∧
      keyOperand { s with key := k, keyLen := BitVec.ofNat 32 key.length } = key := by
  obtain ⟨k, r, hperform, hbytes⟩ := performAll_keyWords hb key (n := (key.length + 3) / 4) (by omega)
  have hwrite := exec_wr32_reg (s := { s with key := k, response := r }) (off := 0x020) (r := .keyLen)
    (v := BitVec.ofNat 32 key.length) (by decide) (by decide) rfl
  rw [writeReg, inputWrite_idle (by exact hb)] at hwrite
  refine ⟨_, k, expandLdkey_of_le hlen, performAll_concat hperform hwrite, ?_⟩
  rw [keyOperand, length_toNat hlen (by decide)]
  exact bytesOf_eq fun i hi => hbytes i (by omega)

/-! ## LDBUF -/

/-- The first `n` words of a frame, stored while idle, are the first `4 n` bytes of IN_BUF (R87). -/
theorem performAll_frameWords {s : State} (hinv : Inv s) (hb : s.busy = false) (frame : List Byte) {n : Nat}
    (hn : 4 * n ≤ s.maxFrame) :
    ∃ m r, performAll ((List.range n).map fun j =>
        storeWord (BitVec.ofNat 18 (0x10000 + 4 * j)) (sequenceWord frame j)) s =
          .next { s with inBuf := m, response := r } ∧
      Memory.wf .input m ∧ ∀ i < 4 * n, inByte { s with inBuf := m } i = frame.getD i 0 := by
  induction n with
  | zero => exact ⟨s.inBuf, s.response, rfl, hinv.buffers.1, nofun⟩
  | succ n ih =>
    obtain ⟨m, r, hperform, hwf, hbytes⟩ := ih (by omega)
    have hmax : s.maxFrame ≤ 65520 := hinv.params.2.2
    have hstore := hostWrite_input_idle (s := { s with inBuf := m, response := r }) (n := .four) (i := 4 * n)
      (v := sequenceWord frame n) hb (by omega) (by simp only [Width.bytes]; omega) hn
    refine ⟨storeIn (sequenceWord frame n) (4 * n) 4 m, some .ok, ?_, storeIn_wf hwf, fun i hi => ?_⟩
    · rw [List.range_succ, List.map_append]
      exact performAll_concat hperform (congrArg Host.Outcome.next hstore)
    · refine (inByte_storeIn (s := { s with inBuf := m }) hwf _ _ _ i).trans ?_
      split_ifs with hj
      · rw [show i - 4 * n = i % 4 by omega, show n = i / 4 by omega]
        exact wordByte_sequenceWord frame i
      · exact hbytes i (by omega)

/-- LDBUF of a frame that fits IN_BUF makes the given bytes the frame operand; it changes nothing
else (R118). -/
theorem performAll_expandLdbuf {s : State} {frame : List Byte} (hinv : Inv s) (hb : s.busy = false)
    (hlen : frame.length ≤ s.maxFrame) :
    ∃ is m, expandLdbuf frame = some is ∧
      performAll is s = .next { s with
        inBuf := m, dataLen := BitVec.ofNat 32 frame.length, response := some .ok } ∧
      frameOperand { s with inBuf := m, dataLen := BitVec.ofNat 32 frame.length } = frame := by
  obtain ⟨halign, -, hmax⟩ := hinv.params
  obtain ⟨m, r, hperform, -, hbytes⟩ :=
    performAll_frameWords hinv hb frame (n := (frame.length + 3) / 4) (by omega)
  have hwrite := exec_wr32_reg (s := { s with inBuf := m, response := r }) (off := 0x024) (r := .dataLen)
    (v := BitVec.ofNat 32 frame.length) (by decide) (by decide) rfl
  rw [writeReg, inputWrite_idle (by exact hb)] at hwrite
  refine ⟨_, m, expandLdbuf_of_le (by omega), performAll_concat hperform hwrite, ?_⟩
  rw [frameOperand, length_toNat hlen (by omega)]
  exact bytesOf_eq fun i hi => hbytes i (by omega)

/-! ## SETP and all three -/

/-- SETP sets the two PRESENT bits and changes nothing else (R45, R118). -/
theorem performAll_expandSetp {s : State} (hb : s.busy = false) (kp dp : Bool) :
    performAll (expandSetp kp dp) s =
      .next { s with keyPresent := kp, dataPresent := dp, response := some .ok } := by
  have hwrite := exec_wr32_reg (s := s) (off := 0x01C) (r := .present) (v := flagBit dp 1 ||| flagBit kp 0)
    (by decide) (by decide) rfl
  rw [writeReg, inputWrite_idle hb] at hwrite
  refine (performAll_concat (is := []) rfl hwrite).trans ?_
  cases kp <;> cases dp <;> rfl

/-- Settles O60: LDKEY, LDBUF and SETP each change only their own operands, so the last state holds
the operands of all three. -/
theorem loadedOperands : Obligations.LoadedOperands := by
  unfold Obligations.LoadedOperands
  intro s key frame kp dp hinv hb hkey hframe
  obtain ⟨loadKey, k, hexpandKey, hloadKey, hkeyOperand⟩ := performAll_expandLdkey hb hkey
  have hinvKey : Inv { s with key := k, keyLen := BitVec.ofNat 32 key.length, response := some .ok } :=
    hinv.of_invFields_eq rfl
  obtain ⟨loadFrame, m, hexpandFrame, hloadFrame, hframeOperand⟩ :=
    performAll_expandLdbuf hinvKey hb hframe
  have hmax : s.maxFrame ≤ 65520 := hinv.params.2.2
  have hload := (performAll_append hloadKey).trans hloadFrame
  exact ⟨loadKey, loadFrame, _, hexpandKey, hexpandFrame,
    (performAll_append hload).trans (performAll_expandSetp (by exact hb) kp dp), hkeyOperand, hframeOperand,
    length_toNat hkey (by decide), length_toNat hframe (by omega), rfl, rfl, hb,
    ⟨rfl, rfl, rfl, rfl, fun _ => rfl⟩, rfl⟩

end Sys2Proof.Machine

/-! PROOF. The Cipher Selector and the key schedule (R140 to R145): SELECT's configurations,
RESULT as a function of the operand bytes alone, and R145's loop, in which a word once appended stays
and satisfies the recurrence of its index. -/

namespace Sys2Proof.Machine

/-! ## SELECT -/

/-- SELECT gives each configuration exactly for its key length (R140). -/
theorem select_eq_some_iff {klen : Word} {c : Nat × Nat} :
    select klen = some c ↔
      (klen = 16 ∧ c = (4, 10)) ∨ (klen = 24 ∧ c = (6, 12)) ∨ (klen = 32 ∧ c = (8, 14)) := by
  refine ⟨select_eq_some, ?_⟩
  rintro (⟨rfl, rfl⟩ | ⟨rfl, rfl⟩ | ⟨rfl, rfl⟩) <;> rfl

/-- UNSUPPORTED is every other 32-bit value (R140). -/
theorem select_eq_none_iff {klen : Word} :
    select klen = none ↔ klen ≠ 16 ∧ klen ≠ 24 ∧ klen ≠ 32 := by
  rw [Option.eq_none_iff_forall_ne_some]
  simp only [ne_eq, select_eq_some_iff]
  constructor
  · intro h
    exact ⟨fun h16 => h _ (.inl ⟨h16, rfl⟩), fun h24 => h _ (.inr (.inl ⟨h24, rfl⟩)),
      fun h32 => h _ (.inr (.inr ⟨h32, rfl⟩))⟩
  · rintro ⟨h16, h24, h32⟩ c (⟨h, -⟩ | ⟨h, -⟩ | ⟨h, -⟩)
    · exact h16 h
    · exact h24 h
    · exact h32 h

/-- A supported key is at most the 32 bytes of KEYB (R140). -/
theorem toNat_le_of_select_ne_none {klen : Word} (h : select klen ≠ none) : klen.toNat ≤ 32 := by
  obtain ⟨c, hc⟩ := Option.ne_none_iff_exists'.1 h
  obtain ⟨rfl, -⟩ | ⟨rfl, -⟩ | ⟨rfl, -⟩ := select_eq_some hc <;> decide

/-! ## RESULT -/

/-- With both operands present an unsupported key length is the first check that fails (R144, R236). -/
theorem result_of_select_eq_none {klen : Word} (h : select klen = none) (op : Op) (keyb : Nat → Byte)
    (dlen : Word) (inb : Nat → Byte) (m : Nat) :
    result op true true klen keyb dlen inb m = .absent .keyLength := by
  simp [result, h]

/-- RESULT reads only the bytes of the key and of the frame, up to their lengths (R112, R142). -/
theorem result_congr {klen dlen : Word} {keyb keyb' inb inb' : Nat → Byte}
    (hkey : ∀ i < klen.toNat, keyb i = keyb' i) (hin : ∀ i < dlen.toNat, inb i = inb' i)
    (op : Op) (kp dp : Bool) (m : Nat) :
    result op kp dp klen keyb dlen inb m = result op kp dp klen keyb' dlen inb' m := by
  simp only [result, bytesOf_congr hkey, bytesOf_congr hin]

/-- A key byte is one of its key word (R43). -/
theorem keyByte_congr {s t : State} {i : Nat} (hi : i / 4 < 8) (h : t.key[i / 4] = s.key[i / 4]) :
    keyByte t i = keyByte s i := by
  simp [keyByte, List.getD, hi, h]

/-- Settles O20: the cases of SELECT, and RESULT at UNSUPPORTED. -/
theorem keyLengthSelection : Obligations.KeyLengthSelection := by
  unfold Obligations.KeyLengthSelection
  refine ⟨fun klen => ⟨?_, ?_, ?_, select_eq_none_iff⟩,
    fun op klen keyb dlen inb m h => result_of_select_eq_none h op keyb dlen inb m, rfl⟩
  all_goals simp [select_eq_some_iff]

/-- Settles O22: every byte of a supported key lies in a key word that starts below KEY_LEN, and
RESULT reads no other key byte. -/
theorem keyBytesBeyondLengthIgnored : Obligations.KeyBytesBeyondLengthIgnored := by
  unfold Obligations.KeyBytesBeyondLengthIgnored
  intro op s k hselect hwords
  have hlen : s.keyLen.toNat ≤ 32 := toNat_le_of_select_ne_none hselect
  have hkey : ∀ i < s.keyLen.toNat, keyByte { s with key := k } i = keyByte s i := fun i hi =>
    keyByte_congr (by omega) (hwords ⟨i / 4, by omega⟩ (by omega : 4 * (i / 4) < _))
  exact result_congr hkey (fun _ _ => rfl) op _ _ _

/-! ## The key schedule -/

theorem extendSchedule_length (nk n : Nat) (ws : List Quad) :
    (extendSchedule nk n ws).length = ws.length + n := by
  induction n generalizing ws with
  | zero => rfl
  | succ n ih => rw [extendSchedule, ih, List.length_append, List.length_singleton]; omega

/-- The loop keeps the words it starts from. -/
theorem extendSchedule_getD_of_lt {ws : List Quad} {i : Nat} (nk n : Nat) (hi : i < ws.length) :
    (extendSchedule nk n ws).getD i Quad.zero = ws.getD i Quad.zero := by
  induction n generalizing ws with
  | zero => rfl
  | succ n ih =>
    rw [extendSchedule, ih (by rw [List.length_append]; omega), List.getD_append _ _ _ _ hi]

/-- Each word the loop appends is the one R145 computes from the words before it. -/
theorem extendSchedule_getD_of_le {nk n i : Nat} {ws : List Quad} (hnk : 0 < nk) (hws : nk ≤ ws.length)
    (hle : ws.length ≤ i) (hlt : i < ws.length + n) :
    (extendSchedule nk n ws).getD i Quad.zero =
      xorQuad ((extendSchedule nk n ws).getD (i - nk) Quad.zero)
        (scheduleTemp nk i ((extendSchedule nk n ws).getD (i - 1) Quad.zero)) := by
  induction n generalizing ws with
  | zero => omega
  | succ n ih =>
    obtain rfl | hlater := Nat.eq_or_lt_of_le hle
    · rw [extendSchedule_getD_of_lt nk (n + 1) (by omega : ws.length - nk < ws.length),
        extendSchedule_getD_of_lt nk (n + 1) (by omega : ws.length - 1 < ws.length), extendSchedule,
        extendSchedule_getD_of_lt nk n (by simp), List.getD_append_right _ _ _ _ le_rfl, Nat.sub_self,
        List.getD_cons_zero]
    · rw [extendSchedule]
      apply ih <;> rw [List.length_append, List.length_singleton] <;> omega

theorem keyExpansion_length (key : List Byte) {nk nr : Nat} (h : nk ≤ 4 * (nr + 1)) :
    (keyExpansion key nk nr).length = 4 * (nr + 1) := by
  rw [keyExpansion, extendSchedule_length, List.length_map, List.length_range, Nat.add_sub_of_le h]

/-- The first `Nk` words are the key's (R145). -/
theorem keyExpansion_getD_of_lt (key : List Byte) {nk i : Nat} (nr : Nat) (hi : i < nk) :
    (keyExpansion key nk nr).getD i Quad.zero = quadAt key (4 * i) := by
  rw [keyExpansion, extendSchedule_getD_of_lt nk _ (by simpa using hi)]
  simp [List.getD, hi]

/-- The recurrence of the words from `Nk` on (R145). -/
theorem keyExpansion_getD_of_le (key : List Byte) {nk nr i : Nat} (hnk : 0 < nk) (hle : nk ≤ i)
    (hlt : i < 4 * (nr + 1)) :
    (keyExpansion key nk nr).getD i Quad.zero =
      xorQuad ((keyExpansion key nk nr).getD (i - nk) Quad.zero)
        (scheduleTemp nk i ((keyExpansion key nk nr).getD (i - 1) Quad.zero)) := by
  have hlen : ((List.range nk).map fun i => quadAt key (4 * i)).length = nk := by simp
  exact extendSchedule_getD_of_le hnk hlen.ge (hlen.trans_le hle) (by omega)

/-- Settles O31: the length, the key's words and the recurrence hold of every key length from one word
up to the whole schedule. -/
theorem keyScheduleRecurrence : Obligations.KeyScheduleRecurrence := by
  unfold Obligations.KeyScheduleRecurrence
  intro key nk nr hconfig
  have hnk : 0 < nk ∧ nk ≤ 4 * (nr + 1) := by
    simp only [List.mem_cons, Prod.mk.injEq, List.not_mem_nil, or_false] at hconfig
    omega
  obtain ⟨hpos, hfit⟩ := hnk
  exact ⟨keyExpansion_length key hfit, fun i hi => keyExpansion_getD_of_lt key nr hi,
    fun i hle hlt => keyExpansion_getD_of_le key hpos hle hlt⟩

end Sys2Proof.Machine

/-! PROOF. Padding (spec/41_padding.md). A frame followed by N bytes of value N ends in the byte N,
so UNPAD strips exactly those bytes; PAD's output is such a sequence. -/

namespace Sys2Proof.Machine

/-- The last byte of a sequence that ends in copies of `b`. -/
theorem lastByte_append_replicate (p : List Byte) {n : Nat} (hn : 1 ≤ n) (b : Byte) :
    lastByte (p ++ List.replicate n b) = b := by
  have hlen : (p ++ List.replicate n b).length = p.length + n := by simp
  rw [lastByte, hlen, List.getD_append_right _ _ _ _ (by omega)]
  exact List.getD_replicate b (by omega)

/-- UNPAD strips N bytes of value N, whatever stands before them (R173). -/
theorem unpad_append_replicate (p : List Byte) {n : Nat} (hpos : 1 ≤ n) (hle : n ≤ 16) :
    unpad (p ++ List.replicate n (BitVec.ofNat 8 n)) = some p := by
  have hcount : (BitVec.ofNat 8 n).toNat = n := by rw [BitVec.toNat_ofNat]; omega
  have hkept : (p ++ List.replicate n (BitVec.ofNat 8 n)).length - n = p.length := by simp
  have hsame : ∀ x ∈ List.replicate n (BitVec.ofNat 8 n), x = BitVec.ofNat 8 n :=
    fun _ => List.eq_of_mem_replicate
  rw [unpad, lastByte_append_replicate p hpos, hcount, hkept, List.drop_left, List.take_left,
    if_pos ⟨hpos, hle, hsame⟩]

/-- What UNPAD accepts, of at least one block, is its result followed by the padding (R173). -/
theorem eq_append_replicate_of_unpad {q p : List Byte} (hlen : 16 ≤ q.length) (h : unpad q = some p) :
    ∃ n, 1 ≤ n ∧ n ≤ 16 ∧ q = p ++ List.replicate n (BitVec.ofNat 8 n) := by
  obtain ⟨n, hpos, hle, rfl, hsame⟩ := unpad_eq_some h
  have hdrop : q.drop (q.length - n) = List.replicate n (BitVec.ofNat 8 n) :=
    List.eq_replicate_iff.2 ⟨by rw [List.length_drop]; omega, hsame⟩
  exact ⟨n, hpos, hle, by rw [← hdrop, List.take_append_drop]⟩

/-- The padding count of a frame of whole blocks (R172). -/
theorem padCount_of_aligned {n : Nat} (h : n % 16 = 0) : padCount n = 16 := by rw [padCount, h]

/-- Settles O26: PAD appends N bytes of value N, for its N from 1 to 16. -/
theorem unpadOfPad : Obligations.UnpadOfPad :=
  fun p => unpad_append_replicate p (padCount_pos p.length) (padCount_le p.length)

/-- Settles O27: a nonempty sequence of whole blocks has the 16 bytes that UNPAD may look at. -/
theorem unpadAcceptsExactlyPadding : Obligations.UnpadAcceptsExactlyPadding := by
  unfold Obligations.UnpadAcceptsExactlyPadding
  intro q p hblocks hne
  constructor
  · have hpos := List.length_pos_of_ne_nil hne
    exact eq_append_replicate_of_unpad (by omega)
  · rintro ⟨n, hpos, hle, rfl⟩
    exact unpad_append_replicate p hpos hle

/-- Settles O25: the bounds follow from the length, the extra block from the count. -/
theorem paddedFrame : Obligations.PaddedFrame := by
  unfold Obligations.PaddedFrame
  intro p
  have hlen := pad_length p
  refine ⟨hlen, by omega, by omega, fun haligned => ?_⟩
  rw [pad, padCount_of_aligned haligned]

end Sys2Proof.Machine

/-! PROOF. The block operations (R204 to R206). INV_CIPHER groups the transformations differently
from CIPHER, adding a round key before it unmixes the columns, so what its rounds undo is the rounds
of CIPHER seen through SUB_BYTES and SHIFT_ROWS. -/

namespace Sys2Proof.Machine

/-- Seen through SUB_BYTES and SHIFT_ROWS, INV_CIPHER's rounds undo CIPHER's. -/
theorem invCipherRounds_cipherRounds (w : List Quad) (n : Nat) (s : Block) :
    invCipherRounds w n (shiftRows (subBytes (cipherRounds w n s))) = shiftRows (subBytes s) := by
  induction n with
  | zero => rfl
  | succ n ih =>
    have hround : ∀ t, invCipherRound w (n + 1) (shiftRows (subBytes (cipherRound w (n + 1) t))) =
        shiftRows (subBytes t) := fun t => by simp [invCipherRound, cipherRound]
    rw [cipherRounds, invCipherRounds, hround, ih]

/-- Seen through INV_SHIFT_ROWS and INV_SUB_BYTES, CIPHER's rounds undo INV_CIPHER's. -/
theorem cipherRounds_invCipherRounds (w : List Quad) (n : Nat) (s : Block) :
    cipherRounds w n (invSubBytes (invShiftRows (invCipherRounds w n s))) =
      invSubBytes (invShiftRows s) := by
  induction n generalizing s with
  | zero => rfl
  | succ n ih =>
    have hround : ∀ t, cipherRound w (n + 1) (invSubBytes (invShiftRows (invCipherRound w (n + 1) t))) =
        invSubBytes (invShiftRows t) := fun t => by simp [invCipherRound, cipherRound]
    rw [cipherRounds, invCipherRounds, ih, hround]

theorem invCipher_cipher (b : Block) (w : List Quad) (nr : Nat) : invCipher (cipher b w nr) w nr = b := by
  simp [invCipher, cipher, invCipherRounds_cipherRounds]

theorem cipher_invCipher (b : Block) (w : List Quad) (nr : Nat) : cipher (invCipher b w nr) w nr = b := by
  simp [invCipher, cipher, cipherRounds_invCipherRounds]

/-- Settles O32: the outer transformations cancel once the inner rounds have. -/
theorem cipherInverse : Obligations.CipherInverse :=
  fun b w nr => ⟨invCipher_cipher b w nr, cipher_invCipher b w nr⟩

end Sys2Proof.Machine

/-! PROOF. The field GF(2^8) (R190 to R194). Reduction modulo 0x11B is additive and turns one more
factor x into xtime, so R192's loop is the reduced image of the loop that forms the unreduced product.
Multiplication is bilinear, hence commutative and associative, which makes an inverse unique; the
S-box table shows that every nonzero byte has one. -/

namespace Sys2Proof.Machine

/-! ## Reduction modulo 0x11B -/

/-- A correction `m` that each summand adds on its own condition is added to the sum when exactly one
condition holds. -/
theorem ite_xor_xor {n : Nat} (c d : Bool) (p q m : BitVec n) :
    (if c ^^ d then p ^^^ q ^^^ m else p ^^^ q) =
      (if c then p ^^^ m else p) ^^^ (if d then q ^^^ m else q) := by
  cases c <;> cases d
  · rfl
  · exact BitVec.xor_assoc p q m
  · simp only [Bool.xor_false, if_true, Bool.false_eq_true, if_false]; ac_rfl
  · have hcancel : p ^^^ m ^^^ (q ^^^ m) = p ^^^ q ^^^ (m ^^^ m) := by ac_rfl
    simp [hcancel]

/-- Cancel the power `x^k` of a polynomial by a multiple of 0x11B, as `polyMod` does for each `k`. -/
def cancelPower (p : BitVec 16) (k : Nat) : BitVec 16 :=
  if p.getLsbD k then p ^^^ (0x11B#16 <<< (k - 8)) else p

theorem polyMod_eq_foldl_cancelPower (p : BitVec 16) :
    polyMod p = ([15, 14, 13, 12, 11, 10, 9, 8].foldl cancelPower p).setWidth 8 := rfl

theorem cancelPower_xor (p q : BitVec 16) (k : Nat) :
    cancelPower (p ^^^ q) k = cancelPower p k ^^^ cancelPower q k := by
  simp only [cancelPower, BitVec.getLsbD_xor, ite_xor_xor]

theorem foldl_cancelPower_xor (ks : List Nat) (p q : BitVec 16) :
    ks.foldl cancelPower (p ^^^ q) = ks.foldl cancelPower p ^^^ ks.foldl cancelPower q := by
  induction ks generalizing p q with
  | nil => rfl
  | cons k ks ih => simp only [List.foldl_cons, cancelPower_xor, ih]

/-- Reduction is additive. -/
theorem polyMod_xor (p q : BitVec 16) : polyMod (p ^^^ q) = polyMod p ^^^ polyMod q := by
  simp only [polyMod_eq_foldl_cancelPower, foldl_cancelPower_xor, BitVec.setWidth_xor]

theorem polyMod_shiftLeft_linear (j : Nat) : ByteLinear fun a => polyMod (a.setWidth 16 <<< j) :=
  fun x y => by simp only [BitVec.setWidth_xor, BitVec.shiftLeft_xor_distrib, polyMod_xor]

theorem xtime_linear : ByteLinear xtime := fun x y => by
  simp only [xtime, BitVec.getLsbD_xor, BitVec.shiftLeft_xor_distrib, ite_xor_xor]

/-- One more factor `x` is one more xtime, as long as the product has degree at most 15. -/
theorem polyMod_shiftLeft_succ (a : Byte) {j : Nat} (hj : j < 8) :
    polyMod (a.setWidth 16 <<< (j + 1)) = xtime (polyMod (a.setWidth 16 <<< j)) :=
  ByteLinear.ext (polyMod_shiftLeft_linear (j + 1)) (xtime_linear.comp (polyMod_shiftLeft_linear j))
    (by revert j; decide +kernel) a

/-! ## The product -/

/-- One power of the product: add `a • x^k` when `b` has it, as `polyMul` does for each `k`. -/
def addPower (a b : Byte) (p : BitVec 16) (k : Nat) : BitVec 16 :=
  if b.getLsbD k then p ^^^ (a.setWidth 16 <<< k) else p

theorem polyMul_eq_foldl_addPower (a b : Byte) : polyMul a b = (List.range' 0 8).foldl (addPower a b) 0 := rfl

theorem polyMod_addPower (a b : Byte) (p : BitVec 16) (k : Nat) :
    polyMod (addPower a b p k) =
      if b.getLsbD k then polyMod p ^^^ polyMod (a.setWidth 16 <<< k) else polyMod p := by
  rw [addPower, apply_ite polyMod, polyMod_xor]

/-- R192's loop from power `j` on, started at reduced polynomials, gives the reduced product. -/
theorem gmulLoop_polyMod (a b : Byte) (n j : Nat) (hn : j + n ≤ 8) (p : BitVec 16) :
    (gmulLoop b (List.range' j n) (polyMod p, polyMod (a.setWidth 16 <<< j))).1 =
      polyMod ((List.range' j n).foldl (addPower a b) p) := by
  induction n generalizing j p with
  | zero => rfl
  | succ n ih =>
    rw [List.range'_succ, gmulLoop, List.foldl_cons, ← ih (j + 1) (by omega), polyMod_addPower,
      polyMod_shiftLeft_succ a (by omega)]

theorem polyMod_shiftLeft_zero (a : Byte) : polyMod (a.setWidth 16 <<< 0) = a :=
  ByteLinear.ext (polyMod_shiftLeft_linear 0) ByteLinear.id (by decide +kernel) a

/-- Settles O28: the loop starts at the reductions of 0 and of `a`. -/
theorem gmulIsFieldProduct : Obligations.GmulIsFieldProduct := by
  unfold Obligations.GmulIsFieldProduct
  intro a b
  have hloop := gmulLoop_polyMod a b 8 0 le_rfl 0
  rwa [polyMod_shiftLeft_zero, ← polyMul_eq_foldl_addPower] at hloop

/-! ## Multiplication is commutative and associative -/

theorem gmulLoop_xor_left (b : Byte) (ks : List Nat) (p q x y : Byte) :
    (gmulLoop b ks (p ^^^ q, x ^^^ y)).1 = (gmulLoop b ks (p, x)).1 ^^^ (gmulLoop b ks (q, y)).1 := by
  induction ks generalizing p q x y with
  | nil => rfl
  | cons k ks ih =>
    simp only [gmulLoop, xtime_linear x y, ← ih]
    cases b.getLsbD k
    · rfl
    · have hregroup : p ^^^ q ^^^ (x ^^^ y) = p ^^^ x ^^^ (q ^^^ y) := by ac_rfl
      simp only [if_true, hregroup]

/-- Multiplication is linear in its first operand too. -/
theorem gmul_linear_left (b : Byte) : ByteLinear fun a => gmul a b :=
  gmulLoop_xor_left b [0, 1, 2, 3, 4, 5, 6, 7] 0 0

theorem gmul_comm (a b : Byte) : gmul a b = gmul b a :=
  ByteLinear.ext (gmul_linear_left b) (gmul_linear b) (fun i hi =>
    ByteLinear.ext (gmul_linear (1#8 <<< i)) (gmul_linear_left (1#8 <<< i))
      (by revert i; decide +kernel) b) a

theorem gmul_assoc (a b c : Byte) : gmul (gmul a b) c = gmul a (gmul b c) :=
  ByteLinear.ext ((gmul_linear_left c).comp (gmul_linear_left b)) (gmul_linear_left (gmul b c)) (fun i hi =>
    ByteLinear.ext ((gmul_linear_left c).comp (gmul_linear (1#8 <<< i)))
      ((gmul_linear (1#8 <<< i)).comp (gmul_linear_left c)) (fun j hj =>
      ByteLinear.ext (gmul_linear (gmul (1#8 <<< i) (1#8 <<< j)))
        ((gmul_linear (1#8 <<< i)).comp (gmul_linear (1#8 <<< j)))
        (by revert i j; decide +kernel) c) b) a

/-! ## The inverse -/

/-- Two bytes that multiply `b` to 01 are equal. -/
theorem eq_of_gmul_eq_one {b c d : Byte} (hc : gmul b c = 1#8) (hd : gmul b d = 1#8) : c = d :=
  calc c = gmul (gmul b d) c := by rw [hd, gmul_one]
    _ = gmul d (gmul b c) := by rw [gmul_comm b d, gmul_assoc]
    _ = d := by rw [hc, gmul_comm, gmul_one]

theorem mem_allBytes (c : Byte) : c ∈ allBytes :=
  List.mem_map.2 ⟨c.toNat, List.mem_range.2 c.isLt, by simp⟩

/-- The search of `inv` succeeds whenever it can. -/
theorem gmul_inv {b c : Byte} (h : gmul b c = 1#8) : gmul b (inv b) = 1#8 := by
  have hfound : (allBytes.find? fun c => gmul b c == 1#8).isSome :=
    List.find?_isSome.2 ⟨c, mem_allBytes c, beq_iff_eq.2 h⟩
  obtain ⟨d, hd⟩ := Option.isSome_iff_exists.1 hfound
  have hprod : gmul b d = 1#8 := by simpa using List.find?_some hd
  rwa [inv, hd]

theorem zero_gmul (c : Byte) : gmul 0#8 c = 0#8 := (gmul_linear_left c).zero

theorem inv_zero : inv 0#8 = 0#8 := by
  have hnone : (allBytes.find? fun c => gmul 0#8 c == 1#8) = none :=
    List.find?_eq_none.2 fun c _ => by simp [zero_gmul]
  rw [inv, hnone]; rfl

/-- The inverse of the affine map `A` of R194. -/
def invAffine (b : Byte) : Byte := b.rotateLeft 1 ^^^ b.rotateLeft 3 ^^^ b.rotateLeft 6 ^^^ 0x05#8

theorem affine_invAffine (b : Byte) : affine (invAffine b) = b := by revert b; decide +kernel

/-- The S-box table, with `A` undone, lists a factor that gives 01 for each nonzero byte (R194). -/
theorem gmul_invAffine_sbox : ∀ a : Byte, a ≠ 0 → gmul a (invAffine (sbox a)) = 1#8 := by decide +kernel

/-- Settles O29: the table shows that the search of `inv` succeeds, and at most one factor gives 01. -/
theorem inverseIsUnique : Obligations.InverseIsUnique := by
  unfold Obligations.InverseIsUnique
  refine ⟨inv_zero, fun b c hb => ?_⟩
  have hinv : gmul b (inv b) = 1#8 := gmul_inv (gmul_invAffine_sbox b hb)
  constructor
  · intro hc
    exact eq_of_gmul_eq_one hc hinv
  · rintro rfl
    exact hinv

/-- Settles O30: the factor is the table's entry with `A` undone. -/
theorem sboxIsAffineOfInverse : Obligations.SboxIsAffineOfInverse := by
  unfold Obligations.SboxIsAffineOfInverse
  exact ⟨by decide, fun a ha =>
    ⟨invAffine (sbox a), gmul_invAffine_sbox a ha, (affine_invAffine (sbox a)).symm⟩⟩

end Sys2Proof.Machine

/-! PROOF. A running command from the host's events to its completion (R250, R361). While busy the
host can set flags and read, but it changes no operand and does not end the command; the engine's
turn then publishes the result the operands had at the start. -/

namespace Sys2Proof.Machine

/-! ## The engine's turn and a quiet block -/

/-- An idle block has no datapath value to redraw (R53 to R57). -/
theorem settle_of_idle {s : State} (hp : s.phase = .idle) : settle s = s := by
  simp only [settle, hp]

/-- The engine does nothing while idle (R250, log 25). -/
theorem engineStep_of_idle {s : State} (hp : s.phase = .idle) : engineStep s = s := by
  simp only [engineStep, hp]

/-- The engine completes the command that runs (R250). -/
theorem engineStep_of_run {s : State} {op : Op} (hp : s.phase = .run op) :
    engineStep s = complete (commandResult op s) s := by
  simp only [engineStep, hp]

/-- After the engine's turn the block is idle (R250). -/
theorem engineStep_phase (s : State) : (engineStep s).phase = .idle := by
  obtain ⟨hp, he⟩ | ⟨op, -, he⟩ := engineStep_cases s <;> rw [he]
  · exact hp
  · exact complete_phase _ s

/-- With nothing scheduled the next step is the engine's (log 2). -/
theorem step_of_schedule_nil {s : State} (hs : s.schedule = []) : step s = .next (engineStep s) := by
  simp only [step, nextStep, hs, settle_of_idle (engineStep_phase s)]

/-- Settles O9: the step takes the event there is, or the engine's turn when there is none. -/
theorem stepWithoutHost : Obligations.StepWithoutHost := by
  unfold Obligations.StepWithoutHost
  intro s rest
  refine ⟨step_of_schedule_cons, step_of_schedule_cons, ?_, ?_⟩
  · intro hs hp
    rw [step_of_schedule_nil hs, engineStep_of_idle hp]
  · intro op hs hp
    rw [step_of_schedule_nil hs, engineStep_of_run hp]

/-- The engine's turn, scheduled or left by a quiet outside, leaves the events after it. -/
theorem step_of_engineTurn {s : State} {rest : List Event}
    (hs : s.schedule = .engine :: rest ∨ (s.schedule = [] ∧ rest = [])) :
    step s = .next { engineStep s with schedule := rest } := by
  rw [← engineStep_withSchedule]
  obtain hs | ⟨hs, rfl⟩ := hs
  · rw [step_of_schedule_cons hs, runEvent, settle_of_idle (engineStep_phase _)]
  · rw [step_of_schedule_nil hs, ← hs]

/-! ## A host event while a command runs -/

/-- The two states run the same command: the same operation on the same operands. -/
structure SameCommand (s t : State) : Prop where
  inputs : SameInputs s t
  phase  : t.phase = s.phase
  busy   : t.busy = s.busy

theorem SameOutput.trans {s t u : State} (h : SameOutput s t) (h' : SameOutput t u) : SameOutput s u where
  done := h'.done.trans h.done
  value := h'.value.trans h.value
  cause := h'.cause.trans h.cause
  outLen := h'.outLen.trans h.outLen
  out i := (h'.out i).trans (h.out i)

/-- While busy no effect of the host touches the command that runs (R241, R287, R361). -/
theorem Effect.sameCommand_of_busy {s u : State} (e : Effect s u) (hb : s.busy = true) :
    SameCommand s u ∧ u.schedule = s.schedule := by
  cases e with
  | nothing | ctrl | err | irq | cmdBusy | writeBusy =>
    exact ⟨⟨⟨rfl, rfl, rfl, rfl, rfl, rfl, fun _ => rfl⟩, rfl, rfl⟩, rfl⟩
  | illegal h | accepted op h | present v h | keyLen v h | dataLen v h | key j v h | store v i n h hn =>
    exact absurd hb (by simp [h])

/-- A host event is performed: an effect of the host, a response, and the redraw. -/
theorem step_of_hostEvent {s : State} {e : Event} {rest : List Event} (he : HostEvent e)
    (hs : s.schedule = e :: rest) :
    ∃ u r, Effect { s with schedule := rest } u ∧ step s = .next (settle { u with response := r }) := by
  rw [step_of_schedule_cons hs]
  have perform (i : Instr) : ∃ u r, Effect { s with schedule := rest } u ∧
      mapNext settle (exec i { s with schedule := rest }) = .next (settle { u with response := r }) := by
    obtain ⟨u, r, hu, hexec⟩ := exec_effect i { s with schedule := rest }
    exact ⟨u, some r, hu, by rw [hexec]; rfl⟩
  cases e with
  | host bytes =>
    obtain ⟨i, hi⟩ := he
    simpa only [runEvent, runBytes_of_decode hi] using perform i
  | bus write n addr data =>
    cases ha : busOffset addr with
    | some off => simpa only [runEvent, runBus, ha] using perform (accessInstr write n off data)
    | none => exact ⟨_, s.response, .nothing _, by simp only [runEvent, runBus, ha]⟩
  | engine | reset => exact he.elim

/-- A response and the redraw are no part of a command (R56, R280). -/
theorem SameCommand.settle_response {s u : State} (h : SameCommand s u) (r : Option Response) :
    SameCommand s (settle { u with response := r }) := by
  unfold settle
  split <;> exact { h with inputs := { h.inputs with } }

/-- A host event leaves a running command as it is (R361). -/
theorem step_of_hostEvent_of_busy {s : State} {e : Event} {rest : List Event} (he : HostEvent e)
    (hs : s.schedule = e :: rest) (hb : s.busy = true) :
    ∃ t, step s = .next t ∧ SameCommand s t ∧ t.schedule = rest := by
  obtain ⟨u, r, hu, hstep⟩ := step_of_hostEvent he hs
  obtain ⟨hsame, hrest⟩ := hu.sameCommand_of_busy hb
  have hsame' : SameCommand s u := { hsame with inputs := { hsame.inputs with } }
  exact ⟨_, hstep, hsame'.settle_response r, (settle_schedule _).trans hrest⟩

/-! ## The completion -/

theorem keyByte_eq_of_key_eq {s t : State} (h : t.key = s.key) : keyByte t = keyByte s :=
  funext fun i => by rw [keyByte, h, ← keyByte]

/-- RESULT reads only what the two states share (R112, R286). -/
theorem SameInputs.commandResult_eq {s t : State} (h : SameInputs s t) (op : Op) :
    commandResult op t = commandResult op s := by
  have hin : inByte t = inByte s := funext h.frame
  simp only [commandResult, keyByte_eq_of_key_eq h.key, hin, h.maxFrame, h.keyPresent, h.dataPresent, h.keyLen, h.dataLen]

/-- What a completion publishes is a function of the result alone (R250). -/
theorem sameOutput_complete (res : Result) (s t : State) : SameOutput (complete res s) (complete res t) := by
  cases res <;> exact ⟨rfl, rfl, rfl, rfl, fun _ => rfl⟩

theorem SameCommand.engineStep_sameOutput {s t : State} {op : Op} (h : SameCommand s t)
    (hp : s.phase = .run op) : SameOutput (engineStep s) (engineStep t) := by
  rw [engineStep_of_run hp, engineStep_of_run (h.phase.trans hp), h.inputs.commandResult_eq]
  exact sameOutput_complete ..

theorem run_succ_of_step {s t : State} (h : step s = .next t) (n : Nat) :
    core.run (n + 1) s = core.run n t := by
  simp only [Host.Core.run, show core.step s = .next t from h]

/-- Host events, then the engine's turn: the command that ran at the start is completed. -/
theorem run_completes {s : State} {op : Op} {evs rest : List Event} (hb : s.busy = true)
    (hp : s.phase = .run op) (hevs : ∀ e ∈ evs, HostEvent e)
    (hs : s.schedule = evs ++ .engine :: rest ∨ (s.schedule = evs ∧ rest = [])) :
    ∃ u, core.run (evs.length + 1) s = .next { engineStep u with schedule := rest } ∧
      u.phase = .run op ∧ SameOutput (engineStep s) (engineStep u) := by
  induction evs generalizing s with
  | nil =>
    exact ⟨s, run_succ_of_step (step_of_engineTurn hs) 0, hp, rfl, rfl, rfl, rfl, fun _ => rfl⟩
  | cons e evs ih =>
    obtain ⟨tail, hcons, htail⟩ : ∃ tail, s.schedule = e :: tail ∧
        (tail = evs ++ .engine :: rest ∨ (tail = evs ∧ rest = [])) := by
      obtain hs | ⟨hs, hrest⟩ := hs
      · exact ⟨_, hs, .inl rfl⟩
      · exact ⟨_, hs, .inr ⟨rfl, hrest⟩⟩
    obtain ⟨he, hevs⟩ := List.forall_mem_cons.1 hevs
    obtain ⟨t, hstep, hsame, rfl⟩ := step_of_hostEvent_of_busy he hcons hb
    obtain ⟨u, hrun, hu, hout⟩ := ih (hsame.busy.trans hb) (hsame.phase.trans hp) hevs htail
    exact ⟨u, (run_succ_of_step hstep _).trans hrun, hu, (hsame.engineStep_sameOutput hp).trans hout⟩

/-- Settles O59: the host's events leave the running command alone, and the engine's turn completes it. -/
theorem acceptedCommandCompletes : Obligations.AcceptedCommandCompletes := by
  unfold Obligations.AcceptedCommandCompletes
  intro s op evs rest hinv hp hevs hs
  have hb : s.busy = true := hinv.phase.2 (by simp [hp])
  obtain ⟨u, hrun, hu, hout⟩ := run_completes hb hp hevs hs
  refine ⟨_, hrun, engineStep_phase u, ?_, ?_, ?_, hout.trans ⟨rfl, rfl, rfl, rfl, fun _ => rfl⟩, rfl⟩
  all_goals simp [engineStep_of_run hu]

end Sys2Proof.Machine

/-! PROOF. RESULT (R235, R236): one lemma per check in their order, the values past the checks, and
what a frame transformed block by block is (R242 to R244). -/

namespace Sys2Proof.Machine

/-! ## RESULT, check by check -/

section Checks

variable {op : Op} {kp dp : Bool} {klen dlen : Word} {keyb inb : Nat → Byte} {m nk nr : Nat} {p : List Byte}

theorem result_of_absent (h : kp = false ∨ dp = false) :
    result op kp dp klen keyb dlen inb m = .absent .absentInput := by
  rw [result, if_pos]
  rintro ⟨rfl, rfl⟩
  simp at h

/-- Present operands, empty ones too, are never absent (R239). -/
theorem result_ne_absentInput : result op true true klen keyb dlen inb m ≠ .absent .absentInput := by
  simp only [result, and_self, not_true_eq_false, if_false]
  repeat' split
  all_goals simp

theorem result_of_ctLength (hs : select klen = some (nk, nr)) (h : dlen = 0 ∨ dlen.toNat % 16 ≠ 0) :
    result .decrypt true true klen keyb dlen inb m = .absent .ctLength := by
  simp only [result, hs, if_pos h, true_and, and_self, not_true_eq_false, if_false]

theorem result_of_capacity (hs : select klen = some (nk, nr))
    (h : op = .decrypt → dlen ≠ 0 ∧ dlen.toNat % 16 = 0) (hm : m < dlen.toNat) :
    result op true true klen keyb dlen inb m = .absent .capacity := by
  have hct : ¬(op = .decrypt ∧ (dlen = 0 ∨ dlen.toNat % 16 ≠ 0)) := by
    rintro ⟨hop, h0 | h0⟩
    · exact (h hop).1 h0
    · exact h0 (h hop).2
  simp only [result, hs, if_neg hct, if_pos hm, and_self, not_true_eq_false, if_false]

theorem result_of_encrypt (hs : select klen = some (nk, nr)) (hm : dlen.toNat ≤ m) :
    result .encrypt true true klen keyb dlen inb m =
      .value (encryptFrame (keyExpansion (bytesOf keyb klen.toNat) nk nr) nr (bytesOf inb dlen.toNat)) := by
  simp [result, hs, Nat.not_lt.2 hm]

/-- Past the checks DECRYPT's result is UNPAD's of the deciphered frame. -/
theorem result_of_decrypt (hs : select klen = some (nk, nr)) (h0 : dlen ≠ 0) (hmod : dlen.toNat % 16 = 0)
    (hm : dlen.toNat ≤ m) :
    result .decrypt true true klen keyb dlen inb m =
      (unpad (decryptFrame (keyExpansion (bytesOf keyb klen.toNat) nk nr) nr (bytesOf inb dlen.toNat))).elim
        (.absent .badPadding) .value := by
  have hct : ¬(dlen = 0 ∨ dlen.toNat % 16 ≠ 0) := not_or.2 ⟨h0, not_not.2 hmod⟩
  simp only [result, hs, if_neg hct, if_neg (Nat.not_lt.2 hm), true_and, and_self, not_true_eq_false, if_false]
  cases unpad _ <;> rfl

end Checks

/-- Settles O19: ABSENT_INPUT is the first check, and no later one gives it. -/
theorem absentOperandFirst : Obligations.AbsentOperandFirst := by
  unfold Obligations.AbsentOperandFirst
  refine fun op kp dp klen keyb dlen inb m => ⟨result_of_absent, ?_⟩
  rintro rfl rfl
  exact result_ne_absentInput

/-- Settles O21: the checks of R236 in their order, and then the values of R235. -/
theorem resultByChecks : Obligations.ResultByChecks := by
  unfold Obligations.ResultByChecks
  intro op kp dp klen keyb dlen inb m
  refine ⟨result_of_absent, ?_, ?_⟩
  · rintro rfl rfl hnone
    exact result_of_select_eq_none hnone op keyb dlen inb m
  · rintro rfl rfl nk nr hs
    refine ⟨?_, result_of_capacity hs, ?_, ?_⟩
    · rintro rfl
      exact result_of_ctLength hs
    · rintro rfl
      exact result_of_encrypt hs
    · rintro rfl h0 hmod hm
      rw [result_of_decrypt hs h0 hmod hm, decryptFrame]
      exact ⟨fun p hp => by rw [hp]; rfl, fun hp => by rw [hp]; rfl⟩

/-- Settles O23: RESULT reads the operand registers and the bytes below the two lengths. -/
theorem resultIsFunctionOfOperands : Obligations.ResultIsFunctionOfOperands := by
  unfold Obligations.ResultIsFunctionOfOperands
  intro op s t hm hkp hdp hklen hdlen hkey hin
  rw [commandResult, hm, hkp, hdp, hklen, hdlen]
  exact result_congr hkey hin op _ _ _

/-! ## Block by block -/

/-- Settles O24: each block is transformed alone, so equal blocks become equal blocks. -/
theorem blocksAreIndependent : Obligations.BlocksAreIndependent := by
  unfold Obligations.BlocksAreIndependent
  intro w nr p j
  have henc (i : Nat) : i < (pad p).length / 16 →
      blockAt (encryptFrame w nr p) (16 * i) = cipher (blockAt (pad p) (16 * i)) w nr :=
    blockAt_ecb (cipher · w nr) (pad p) i
  refine ⟨henc j, blockAt_ecb (invCipher · w nr) p j, fun k hj hk heq => ?_⟩
  rw [henc j hj, henc k hk, heq]

/-- Byte `k` of a block is that byte of the sequence it was loaded from (R199). -/
theorem blockBytes_blockAt_getD (q : List Byte) (i : Nat) {k : Nat} (hk : k < 16) :
    (blockBytes (blockAt q i)).getD k 0 = q.getD (i + k) 0 := by
  simp [blockBytes_blockAt, hk]

/-- A block function and its inverse leave a frame of whole blocks as it was (R242). -/
theorem ecb_ecb {f g : Block → Block} (hgf : ∀ b, g (f b) = b) {q : List Byte} (hq : q.length % 16 = 0) :
    ecb g (ecb f q) = q := by
  have hlen : (ecb g (ecb f q)).length = q.length := by simp only [ecb_length]; omega
  refine List.ext_getElem hlen fun i hi hiq => ?_
  have hj : i / 16 < q.length / 16 := by omega
  have hk : i % 16 < 16 := Nat.mod_lt i (by decide)
  have hbyte : (ecb g (ecb f q)).getD (16 * (i / 16) + i % 16) 0 = q.getD (16 * (i / 16) + i % 16) 0 := by
    rw [ecb_getD g _ _ _ hk (by rw [ecb_length]; omega), blockAt_ecb f q _ hj, hgf,
      blockBytes_blockAt_getD _ _ hk]
  rwa [Nat.div_add_mod, List.getD_eq_getElem _ _ hi, List.getD_eq_getElem _ _ hiq] at hbyte

/-- Deciphering an enciphered frame gives the padded frame (R206, R244). -/
theorem decryptFrame_encryptFrame (w : List Quad) (nr : Nat) (p : List Byte) :
    decryptFrame w nr (encryptFrame w nr p) = pad p :=
  ecb_ecb (invCipher_cipher · w nr) (by rw [pad_length]; omega)

end Sys2Proof.Machine

/-! PROOF. The completion record (R250, R252, R57): what OUT_BUF and the result registers hold after
a Value and after an Absent, and what that makes of ENCRYPT, DECRYPT and the two one after the other. -/

namespace Sys2Proof.Machine

/-! ## What a completion records -/

theorem outByte_complete_value (B : List Byte) (s : State) (i : Nat) :
    outByte (complete (.value B) s) i = B.getD i 0 := by
  rw [outByte, complete_value_outBuf, Memory.lookup_ofBytes, Nat.zero_add, Nat.sub_zero]
  split_ifs with h
  · rfl
  · exact (List.getD_eq_default _ _ (by omega)).symm

theorem outByte_complete_absent (c : Cause) (s : State) (i : Nat) :
    outByte (complete (.absent c) s) i = 0 := by
  rw [outByte, complete_absent_outBuf]; rfl

/-- Completion leaves nothing of the command's secrets (R57). -/
theorem zeroized_complete (res : Result) (s : State) : Zeroized (complete res s) where
  key i := by
    rw [keyByte, complete_key, Vector.toList_replicate, List.getD, List.getElem?_getD_replicate_default_eq]
    simp [wordByte]
  keyLen := complete_keyLen res s
  keyPresent := complete_keyPresent res s
  dataPresent := complete_dataPresent res s
  datapath := complete_datapath res s

/-- Settles O34: the engine completes a running command with its RESULT. -/
theorem completionRecord : Obligations.CompletionRecord := by
  unfold Obligations.CompletionRecord
  refine fun s => ⟨engineStep_of_idle, fun op hp => ?_⟩
  rw [engineStep_of_run hp]
  refine ⟨?_, ?_, by simp, by simp, by simp, by simp, zeroized_complete _ s⟩
  · intro B hB
    rw [hB]
    refine ⟨fun i => ?_, rfl, rfl, rfl⟩
    rw [outByte_complete_value]
    split_ifs with h
    · rfl
    · exact List.getD_eq_default _ _ (by omega)
  · intro c hc
    rw [hc]
    exact ⟨outByte_complete_absent c s, rfl, rfl, by cases c <;> rfl⟩

/-! ## The length of a Value -/

/-- A completion sets VALUE only for a Value (R250). -/
theorem commandResult_of_value {s : State} {op : Op} (hp : s.phase = .run op)
    (hv : (engineStep s).value = true) : ∃ B, commandResult op s = .value B := by
  rw [engineStep_of_run hp] at hv
  cases hr : commandResult op s with
  | value B => exact ⟨B, rfl⟩
  | absent c => simp [hr] at hv

/-- OUT_LEN has room for the length of every Value (R252). -/
theorem outLen_of_value {s : State} {op : Op} {B : List Byte} (hm : ParamsLegal s) (hp : s.phase = .run op)
    (hr : commandResult op s = .value B) : (engineStep s).outLen.toNat = B.length := by
  obtain ⟨-, -, hmax⟩ := hm
  have hB : B.length ≤ s.maxFrame + 16 := result_value_length hr
  rw [engineStep_of_run hp, hr, complete_value_outLen, length_toNat hB (by omega)]

/-- Settles O38: the lengths of PAD and of UNPAD, and the capacity check. -/
theorem resultLength : Obligations.ResultLength := by
  unfold Obligations.ResultLength
  intro s hm hv
  have ⟨hmod, hmin, _⟩ := hm
  constructor
  · intro hp
    obtain ⟨B, hr⟩ := commandResult_of_value hp hv
    obtain ⟨hle, nk, nr, -, rfl⟩ := result_encrypt_value hr
    rw [outLen_of_value hm hp hr, encryptFrame_length, bytesOf_length]
    omega
  · intro hp
    obtain ⟨B, hr⟩ := commandResult_of_value hp hv
    obtain ⟨hle, hblocks, h0, nk, nr, -, hu⟩ := result_decrypt_value hr
    obtain ⟨n, hpos, hn, rfl, -⟩ := unpad_eq_some hu
    have hne : s.dataLen.toNat ≠ 0 := fun h => h0 (BitVec.eq_of_toNat_eq h)
    refine ⟨n, hpos, hn, ?_⟩
    rw [outLen_of_value hm hp hr, List.length_take, decryptFrame_length _ _ _ (by rwa [bytesOf_length]), bytesOf_length]
    omega

end Sys2Proof.Machine

/-! PROOF. The command words (R230 to R234, R240, R241). A command instruction and the CMD write of
its word are the dispatch of that word (`exec_decodeCommand`), and the dispatch is one equation per
case of BUSY and the word. -/

namespace Sys2Proof.Machine

/-! ## The dispatch of a command word (R231) -/

section Dispatch

variable {cw : Word} {s : State}

theorem dispatch_of_busy (hb : s.busy = true) : dispatch cw s = setCmdWhileBusy s := by
  rw [dispatch, presentCommand, if_pos hb]

theorem dispatch_of_idle (hb : s.busy = false) : dispatch cw s =
    if cw = 0x00000000#32 then s
    else if cw = 0x00000001#32 then accept .encrypt s
    else if cw = 0x00000002#32 then accept .decrypt s
    else setIllegalCmd s := by
  rw [dispatch, presentCommand, if_neg (by simp [hb])]

theorem dispatch_illegal (hb : s.busy = false) (h0 : cw ≠ 0#32) (h1 : cw ≠ 1#32) (h2 : cw ≠ 2#32) :
    dispatch cw s = setIllegalCmd s := by
  rw [dispatch_of_idle hb, if_neg h0, if_neg h1, if_neg h2]

/-- A command word is accepted, or it changes no more than two ERR flags. -/
theorem dispatch_accepts_or_sets_flags (cw : Word) (s : State) :
    (∃ op, s.busy = false ∧ (cw = 1 ∨ cw = 2) ∧ dispatch cw s = accept op s) ∨
    (∃ a b, dispatch cw s = { s with illegalCmd := a, cmdWhileBusy := b }) := by
  obtain hb | hb := Bool.eq_false_or_eq_true s.busy
  · exact .inr ⟨s.illegalCmd, true, dispatch_of_busy hb⟩
  · rw [dispatch_of_idle hb]
    split_ifs with h0 h1 h2
    · exact .inr ⟨s.illegalCmd, s.cmdWhileBusy, rfl⟩
    · exact .inl ⟨.encrypt, hb, .inl h1, rfl⟩
    · exact .inl ⟨.decrypt, hb, .inr h2, rfl⟩
    · exact .inr ⟨true, s.cmdWhileBusy, rfl⟩

end Dispatch

/-! ## The command instructions -/

/-- Settles O15: BUSY is tested before the word. -/
theorem commandWhileBusyDiscarded : Obligations.CommandWhileBusyDiscarded := by
  unfold Obligations.CommandWhileBusyDiscarded
  intro cw s hb
  rw [exec_decodeCommand, dispatch_of_busy hb]
  rfl

/-- Settles O14: the last branch of the dispatch. -/
theorem illegalWordSetsFlagOnly : Obligations.IllegalWordSetsFlagOnly := by
  unfold Obligations.IllegalWordSetsFlagOnly
  intro cw s h0 h1 h2 hb
  rw [exec_decodeCommand, dispatch_illegal hb h0 h1 h2]
  rfl

/-- Settles O12: NOP is the word 0. -/
theorem nopChangesNothing : Obligations.NopChangesNothing := by
  unfold Obligations.NopChangesNothing
  refine fun s => ⟨fun hb => ?_, commandWhileBusyDiscarded 0 s⟩
  rw [show Instr.nop = decodeCommand 0 from rfl, exec_decodeCommand, dispatch_of_idle hb]
  rfl

theorem exec_encrypt_of_idle {s : State} (hb : s.busy = false) :
    exec .encrypt s = .next (respond .ok (accept .encrypt s)) := by
  rw [show Instr.encrypt = decodeCommand 1 from rfl, exec_decodeCommand, dispatch_of_idle hb]
  rfl

theorem exec_decrypt_of_idle {s : State} (hb : s.busy = false) :
    exec .decrypt s = .next (respond .ok (accept .decrypt s)) := by
  rw [show Instr.decrypt = decodeCommand 2 from rfl, exec_decodeCommand, dispatch_of_idle hb]
  rfl

/-- Settles O13: acceptance sets the fields R232 names; completion ends the phase it starts. -/
theorem commandAcceptance : Obligations.CommandAcceptance := by
  unfold Obligations.CommandAcceptance
  exact ⟨fun s hb => ⟨exec_encrypt_of_idle hb, exec_decrypt_of_idle hb⟩, rfl,
    fun s _ _ => engineStep_phase s⟩

/-- Only a whole word reaches CMD (R82). -/
theorem hostWrite_cmd_of_narrow {n : Width} (hn : n ≠ .four) (v : Word) (s : State) :
    hostWrite n 0x0000C#18 v s = s.answering .busError := by
  have hnone : target s.maxFrame (0x0000C#18).toNat n = none := by simp [target, hn]
  rw [hostWrite, hnone]
  rfl

/-- Settles O16: a CMD write of four bytes is the command instruction of its word, and a narrower one
is not legal. -/
theorem cmdWriteDispatch : Obligations.CmdWriteDispatch := by
  unfold Obligations.CmdWriteDispatch
  intro cw s
  rw [commandIsCmdWrite]
  refine ⟨commandWhileBusyDiscarded cw s, fun hb => ⟨?_, ?_, ?_, ?_⟩, fun d => ?_, fun d => ?_⟩
  · rintro rfl
    exact (nopChangesNothing s).1 hb
  · rintro rfl
    exact exec_encrypt_of_idle hb
  · rintro rfl
    exact exec_decrypt_of_idle hb
  · exact fun h0 h1 h2 => illegalWordSetsFlagOnly cw s h0 h1 h2 hb
  · exact congrArg Host.Outcome.next (hostWrite_cmd_of_narrow (by decide) _ s)
  · exact congrArg Host.Outcome.next (hostWrite_cmd_of_narrow (by decide) _ s)

/-- Settles O18: acceptance moves the result registers and the phase, every other word ERR flags only. -/
theorem commandFrame : Obligations.CommandFrame := by
  unfold Obligations.CommandFrame
  intro cw s t h
  rw [exec_decodeCommand] at h
  obtain rfl := Host.Outcome.next.inj h
  obtain ⟨op, hb, hcw, he⟩ | ⟨a, b, he⟩ := dispatch_accepts_or_sets_flags cw s <;> rw [he]
  · refine ⟨⟨rfl, rfl, rfl, rfl, rfl, rfl, fun _ => rfl⟩, fun _ => rfl, rfl, rfl, rfl, rfl, rfl, rfl, rfl, ?_⟩
    rintro (hbusy | ⟨h1, h2⟩)
    · exact absurd hbusy (by simp [hb])
    · exact absurd hcw (not_or.2 ⟨h1, h2⟩)
  · exact ⟨⟨rfl, rfl, rfl, rfl, rfl, rfl, fun _ => rfl⟩, fun _ => rfl, rfl, rfl, rfl, rfl, rfl, rfl, rfl,
      fun _ => ⟨⟨rfl, rfl, rfl, rfl, fun _ => rfl⟩, rfl, rfl, fun _ => rfl⟩⟩

end Sys2Proof.Machine

/-! PROOF. Whole commands (R233, R234, R244): acceptance keeps the operands, so the completion of
ENCRYPT or DECRYPT is RESULT of the operands before it, and DECRYPT of what ENCRYPT gave is the frame. -/

namespace Sys2Proof.Machine

/-! ## RESULT of the operands in the registers -/

section Operands

variable {s : State} {nk nr : Nat}

/-- Acceptance moves no operand (R232). -/
theorem commandResult_accept (op : Op) (r : Response) (s : State) :
    commandResult op (respond r (accept op s)) = commandResult op s :=
  SameInputs.commandResult_eq ⟨rfl, rfl, rfl, rfl, rfl, rfl, fun _ => rfl⟩ op

theorem commandResult_encrypt (hkp : s.keyPresent = true) (hdp : s.dataPresent = true)
    (hs : select s.keyLen = some (nk, nr)) (hm : s.dataLen.toNat ≤ s.maxFrame) :
    commandResult .encrypt s =
      .value (encryptFrame (keyExpansion (keyOperand s) nk nr) nr (frameOperand s)) := by
  rw [commandResult, hkp, hdp]
  exact result_of_encrypt hs hm

theorem commandResult_decrypt (hkp : s.keyPresent = true) (hdp : s.dataPresent = true)
    (hs : select s.keyLen = some (nk, nr)) (h0 : s.dataLen ≠ 0) (hmod : s.dataLen.toNat % 16 = 0)
    (hm : s.dataLen.toNat ≤ s.maxFrame) :
    commandResult .decrypt s =
      (unpad (decryptFrame (keyExpansion (keyOperand s) nk nr) nr (frameOperand s))).elim
        (.absent .badPadding) .value := by
  rw [commandResult, hkp, hdp]
  exact result_of_decrypt hs h0 hmod hm

end Operands

/-! ## The completion -/

section Completion

variable {s : State} {op : Op}

/-- The engine's turn sets DONE and IRQ_STATUS.DONE and ends BUSY, whatever the result (R250). -/
theorem engineStep_flags (hp : s.phase = .run op) :
    (engineStep s).done = true ∧ (engineStep s).busy = false ∧ (engineStep s).irqDone = true := by
  simp [engineStep_of_run hp]

/-- The completion with a Value (R250). -/
theorem engineStep_of_value {B : List Byte} (hm : ParamsLegal s) (hp : s.phase = .run op)
    (hr : commandResult op s = .value B) :
    (engineStep s).value = true ∧ (engineStep s).cause = 0 ∧ (engineStep s).outLen.toNat = B.length ∧
      ∀ i, outByte (engineStep s) i = B.getD i 0 := by
  rw [outLen_of_value hm hp hr, engineStep_of_run hp, hr]
  exact ⟨rfl, rfl, rfl, outByte_complete_value B s⟩

/-- The completion with an Absent (R250). -/
theorem engineStep_of_absent {c : Cause} (hp : s.phase = .run op) (hr : commandResult op s = .absent c) :
    (engineStep s).value = false ∧ (engineStep s).cause = causeCode c ∧ (engineStep s).outLen = 0 ∧
      ∀ i, outByte (engineStep s) i = 0 := by
  rw [engineStep_of_run hp, hr]
  exact ⟨rfl, rfl, rfl, outByte_complete_absent c s⟩

end Completion

/-- Settles O36: with every check passed RESULT is the enciphered padded frame. -/
theorem encryptCompletes : Obligations.EncryptCompletes := by
  unfold Obligations.EncryptCompletes
  intro s nk nr hm hb hkp hdp hs hlen
  have hr := (commandResult_accept .encrypt .ok s).trans (commandResult_encrypt hkp hdp hs hlen)
  obtain ⟨hdone, hbusy, hirq⟩ := engineStep_flags (s := respond .ok (accept .encrypt s)) rfl
  obtain ⟨hvalue, hcause, hout, hbytes⟩ := engineStep_of_value (s := respond .ok (accept .encrypt s)) hm rfl hr
  refine ⟨_, exec_encrypt_of_idle hb, rfl, rfl, hdone, hbusy, hvalue, hcause, hirq, ?_, hbytes⟩
  rw [hout, encryptFrame_length, frameOperand, bytesOf_length]

/-- Settles O37: with every check before the cipher passed RESULT is what UNPAD says. -/
theorem decryptCompletes : Obligations.DecryptCompletes := by
  unfold Obligations.DecryptCompletes
  intro s nk nr hm hb hkp hdp hs h0 hmod hlen
  have hr := (commandResult_accept .decrypt .ok s).trans (commandResult_decrypt hkp hdp hs h0 hmod hlen)
  obtain ⟨hdone, hbusy, hirq⟩ := engineStep_flags (s := respond .ok (accept .decrypt s)) rfl
  refine ⟨_, exec_decrypt_of_idle hb, rfl, rfl, hdone, hbusy, hirq, fun p hunpad => ?_, fun hunpad => ?_⟩ <;>
    rw [hunpad] at hr
  · exact engineStep_of_value hm rfl hr
  · exact engineStep_of_absent rfl hr

/-! ## The round trip -/

/-- A ciphertext longer than MAX_FRAME_BYTES cannot be decrypted (R236). -/
theorem engineStep_value_of_capacity {u : State} (hp : u.phase = .run .decrypt)
    (hm : u.maxFrame < u.dataLen.toNat) : (engineStep u).value = false := by
  by_contra hv
  obtain ⟨p, hr⟩ := commandResult_of_value hp (by simpa using hv)
  exact Nat.not_lt.2 (result_decrypt_value hr).1 hm

/-- A DECRYPT that gets a ciphertext of ENCRYPT under the key of its frame gives the frame (R244). -/
theorem commandResult_decrypt_encryptFrame {u : State} {p : List Byte} {nk nr : Nat}
    (hkp : u.keyPresent = true) (hdp : u.dataPresent = true) (hs : select u.keyLen = some (nk, nr))
    (hlen : u.dataLen.toNat = 16 * (p.length / 16 + 1)) (hm : u.dataLen.toNat ≤ u.maxFrame)
    (hframe : frameOperand u = encryptFrame (keyExpansion (keyOperand u) nk nr) nr p) :
    commandResult .decrypt u = .value p := by
  have h0 : u.dataLen ≠ 0 := fun h => by simp [h] at hlen
  rw [commandResult_decrypt hkp hdp hs h0 (by omega) hm, hframe, decryptFrame_encryptFrame, unpadOfPad]
  rfl

/-- Settles O33: the lengths decide whether the ciphertext fits, and deciphering undoes enciphering. -/
theorem frameRoundTrip : Obligations.FrameRoundTrip := by
  unfold Obligations.FrameRoundTrip
  intro s u hm hp hv
  obtain ⟨C, hr⟩ := commandResult_of_value hp hv
  obtain ⟨hle, nk, nr, hs, hC⟩ := result_encrypt_value hr
  obtain ⟨-, -, hout, hbytes⟩ := engineStep_of_value hm hp hr
  have hlen : C.length = 16 * (s.dataLen.toNat / 16 + 1) := by
    rw [hC, encryptFrame_length, bytesOf_length]
  have ⟨hmod, _, _⟩ := hm
  refine ⟨by omega, fun hfull => ⟨by omega, fun hpu hmu hdl => ?_⟩, ?_⟩
  · exact engineStep_value_of_capacity hpu (by rw [hdl]; omega)
  · intro hshort hpu hmu hkp hdp hkl hkey hdl hin
    have hlenu : u.dataLen.toNat = C.length := by rw [hdl, hout]
    have hkeys : keyOperand u = keyOperand s := by
      rw [keyOperand, keyByte_eq_of_key_eq hkey, hkl, ← keyOperand]
    have hframe : frameOperand u = C := by
      rw [frameOperand, hlenu]
      exact bytesOf_eq fun i hi => (hin i (hout ▸ hi)).trans (hbytes i)
    have hru : commandResult .decrypt u = .value (frameOperand s) := by
      refine commandResult_decrypt_encryptFrame hkp hdp (hkl ▸ hs) ?_ (by omega) ?_
      · rw [hlenu, hlen, frameOperand, bytesOf_length]
      · rw [hframe, hC, hkeys]; rfl
    have hmu' : ParamsLegal u := by rwa [ParamsLegal, hmu]
    obtain ⟨hvalue, hcause, houtu, hbytesu⟩ := engineStep_of_value hmu' hpu hru
    rw [frameOperand, bytesOf_length] at houtu
    refine ⟨(engineStep_flags hpu).1, hvalue, hcause, BitVec.eq_of_toNat_eq houtu, fun i hi => ?_⟩
    rw [hbytesu, frameOperand, bytesOf_getD _ _ _ hi]

end Sys2Proof.Machine

/-! PROOF. The host's transactions (R280 to R289). The address decode has a target exactly for the
legal accesses of R281; a read joins the bytes it reaches by its width (R85), and a write has the
effect of its target: one equation each for read-only state, input-side state while busy and
input-side state while idle. -/

namespace Sys2Proof.Machine

/-! ## Legality (R281) -/

/-- The register region holds registers at the named offsets only (R84). -/
theorem regAt_eq_none_iff {off : Nat} : regAt off = none ↔ off ∉ registerOffsets := by
  simp [regAt, registerOffsets, ite_eq_iff]

/-- The legal accesses are those that reach something. -/
theorem legalAccess_iff {m off : Nat} {n : Width} :
    LegalAccess m off n.bytes ↔ target m off n ≠ none := by
  have hfour : n.bytes = 4 ↔ n = .four := by cases n <;> decide
  unfold target
  by_cases hreg : off < 0x10000
  · have hbuffers : ¬ 0x10000 ≤ off ∧ ¬ 0x20000 ≤ off ∧ off < 0x30000 := by omega
    by_cases hword : n = .four ∧ off % 4 = 0 <;>
      simp_all [LegalAccess, regAt_eq_none_iff]
  · rw [if_neg hreg]
    split_ifs <;> simp <;> omega

/-- The write transaction of each width carries the low bytes of its data (R117). -/
theorem exec_accessInstr_write (n : Width) (off : Offset) (data : Word) (s : State) :
    exec (accessInstr true n off data) s =
      .next (hostWrite n off ((data.setWidth (8 * n.bytes)).setWidth 32) s) := by
  cases n with
  | one | two => rfl
  | four => simp [accessInstr, exec, execWr32, Width.bytes]

/-- Settles O44: the address decode decides between the BUS_ERROR and the transaction's response. -/
theorem busErrorExactlyWhenIllegal : Obligations.BusErrorExactlyWhenIllegal := by
  unfold Obligations.BusErrorExactlyWhenIllegal
  intro write n off data s
  rw [legalAccess_iff]
  cases write with
  | false =>
    rw [exec_accessInstr_read, hostRead]
    cases target s.maxFrame off.toNat n with
    | none => exact ⟨fun _ => rfl, fun h => absurd rfl h⟩
    | some t => exact ⟨fun h => absurd nofun h, fun _ => ⟨_, rfl, nofun, fun _ => ⟨_, rfl⟩⟩⟩
  | true =>
    rw [exec_accessInstr_write, hostWrite]
    cases target s.maxFrame off.toNat n with
    | none => exact ⟨fun _ => rfl, fun h => absurd rfl h⟩
    | some t => exact ⟨fun h => absurd nofun h, fun _ => ⟨_, rfl, fun _ => rfl, nofun⟩⟩

/-! ## Reads of the buffers -/

/-- The bytes from byte 0 on as the data of a read of each width: byte 0 lowest (R85), zero-extended
(log 21). -/
def readData (byte : Nat → Byte) : Width → Word
  | .one => (byte 0).setWidth 32
  | .two => (byte 1 ++ byte 0).setWidth 32
  | .four => byte 3 ++ byte 2 ++ byte 1 ++ byte 0

theorem leValue_bytes (byte : Nat → Byte) (n : Width) : leValue byte n.bytes = readData byte n := by
  cases n with
  | one => exact leValue_one byte
  | two => exact leValue_two byte
  | four => exact leValue_four byte

/-- The buffer windows start at multiples of every width, so an index is aligned as its offset is
(R83). -/
theorem window_aligned {n : Width} {base i : Nat} (hbase : base % 4 = 0) (h : i % n.bytes = 0) :
    (base + i) % n.bytes = 0 := by
  cases n <;> simp only [Width.bytes] at h ⊢ <;> omega

theorem exec_read_input {s : State} {i : Nat} (n : Width) (data : Word) (hi : i < 0x10000)
    (ha : i % n.bytes = 0) (hm : i + n.bytes ≤ s.maxFrame) :
    exec (accessInstr false n (BitVec.ofNat 18 (0x10000 + i)) data) s =
      .next (s.answering (.data n (readData (fun k => inByte s (i + k)) n))) := by
  rw [exec_accessInstr_read, hostRead_input hi (window_aligned rfl ha) hm, leValue_bytes]
  rfl

theorem exec_read_output {s : State} {i : Nat} (n : Width) (data : Word) (hi : i < 0x10000)
    (ha : i % n.bytes = 0) (hm : i + n.bytes ≤ s.maxFrame + 16) :
    exec (accessInstr false n (BitVec.ofNat 18 (0x20000 + i)) data) s =
      .next (s.answering (.data n (readData (fun k => outVis s (i + k)) n))) := by
  rw [exec_accessInstr_read, hostRead_output hi (window_aligned rfl ha) hm, leValue_bytes]
  rfl

/-- Settles O43: each width's read of a window joins the bytes there. -/
theorem bufferReads : Obligations.BufferReads := by
  unfold Obligations.BufferReads
  intro s i hi
  exact ⟨exec_read_input .one 0 hi (Nat.mod_one i), exec_read_input .two 0 hi, exec_read_input .four 0 hi,
    exec_read_output .one 0 hi (Nat.mod_one i), exec_read_output .two 0 hi, exec_read_output .four 0 hi, rfl⟩

/-! ## Reads of the registers -/

/-- The fields of STATUS at their places (R36). -/
theorem statusWord_eq (s : State) : statusWord s =
    (s.cause ++ 0#1 ++ BitVec.ofBool s.value ++ BitVec.ofBool s.done ++ BitVec.ofBool s.busy).setWidth 32 := by
  unfold statusWord
  generalize s.cause = c, s.value = v, s.done = d, s.busy = b
  revert c v d b
  decide

/-- The fields of ERR at their places (R41). -/
theorem errWord_eq (s : State) : errWord s = (BitVec.ofBool s.writeWhileBusy ++
    BitVec.ofBool s.cmdWhileBusy ++ BitVec.ofBool s.illegalCmd).setWidth 32 := by
  unfold errWord
  generalize s.writeWhileBusy = w, s.cmdWhileBusy = c, s.illegalCmd = i
  revert w c i
  decide

/-- The fields of PRESENT at their places (R45). -/
theorem presentWord_eq (s : State) :
    presentWord s = (BitVec.ofBool s.dataPresent ++ BitVec.ofBool s.keyPresent).setWidth 32 := by
  unfold presentWord
  generalize s.dataPresent = d, s.keyPresent = k
  revert d k
  decide

/-- A register of one flag reads that flag as bit 0 (R34, R42). -/
theorem flagBit_zero (b : Bool) : flagBit b 0 = (BitVec.ofBool b).setWidth 32 := by
  cases b <;> rfl

/-- KEY0 .. KEY7 stand one after another from 0x40 on (R43). -/
theorem regAt_key : ∀ j : Fin 8, regAt (0x40 + 4 * j.val) = some (.key j) := by decide

/-- A 4-byte read of a register whose word is known. -/
theorem exec_rd32_word {s : State} {off : Nat} {r : RegName} {v : Word} (h : off < 0x10000)
    (ha : off % 4 = 0) (hr : regAt off = some r) (hv : readReg s r = v) :
    exec (.rd32 (BitVec.ofNat 18 off)) s = .next (s.answering (.data .four v)) := by
  rw [exec_rd32_reg h ha hr, hv]
  rfl

/-- Settles O42: the read of each register gives its word, and the words are made of the fields. -/
theorem registerReads : Obligations.RegisterReads := by
  unfold Obligations.RegisterReads
  intro s
  refine ⟨?id, ?caps, ?ctrl, ?cmd, ?status, ?err, ?irqStatus, ?present, ?keyLen, ?dataLen, ?outLen, ?key⟩
  case ctrl => exact exec_rd32_word (by decide) rfl rfl (flagBit_zero s.irqEn)
  case status => exact exec_rd32_word (by decide) rfl rfl (statusWord_eq s)
  case err => exact exec_rd32_word (by decide) rfl rfl (errWord_eq s)
  case irqStatus => exact exec_rd32_word (by decide) rfl rfl (flagBit_zero s.irqDone)
  case present => exact exec_rd32_word (by decide) rfl rfl (presentWord_eq s)
  case key => exact fun j => exec_rd32_word (by omega) (by omega) (regAt_key j) rfl
  case id | caps | cmd | keyLen | dataLen | outLen => exact exec_rd32_word (by decide) rfl rfl rfl

/-! ## Writes of flags and of read-only state -/

/-- Settles O45: the three writes are the flag updates, which do not look at BUSY. -/
theorem flagRegisterWrites : Obligations.FlagRegisterWrites := by
  unfold Obligations.FlagRegisterWrites
  intro s v
  exact ⟨⟨_, exec_wr32_reg (r := .ctrl) (by decide) rfl rfl, rfl, rfl⟩,
    exec_wr32_reg (r := .err) (by decide) rfl rfl, exec_wr32_reg (r := .irqStatus) (by decide) rfl rfl⟩

/-- Settles O46: the write of a read-only register or of OUT_BUF has no effect but its response. -/
theorem readOnlyWritesIgnored : Obligations.ReadOnlyWritesIgnored := by
  unfold Obligations.ReadOnlyWritesIgnored
  refine fun s => ⟨fun off hoff v => ?_, fun n i v hi ha hm => ?_⟩
  · simp only [List.mem_cons, List.not_mem_nil, or_false] at hoff
    obtain rfl | rfl | rfl | rfl := hoff
    · exact exec_wr32_reg (r := .id) (by decide) rfl rfl
    · exact exec_wr32_reg (r := .caps) (by decide) rfl rfl
    · exact exec_wr32_reg (r := .status) (by decide) rfl rfl
    · exact exec_wr32_reg (r := .outLen) (by decide) rfl rfl
  · rw [exec_accessInstr_write, hostWrite_output hi ha hm]
    rfl

/-! ## Writes of input-side state -/

/-- The update a whole-word write of an input-side register stands for; no other register is on the
input side (R283, R286). -/
def inputUpdate (v : Word) : RegName → Option (State → State)
  | .present => some (writePresent v)
  | .keyLen => some fun t => { t with keyLen := v }
  | .dataLen => some fun t => { t with dataLen := v }
  | .key j => some (writeKey j v)
  | _ => none

theorem writeReg_of_inputUpdate {v : Word} {r : RegName} {f : State → State} (h : inputUpdate v r = some f)
    (s : State) : writeReg v r s = inputWrite f s := by
  cases r <;> cases h <;> rfl

/-- While busy an input-side write only sets its ERR flag (R287). -/
theorem inputWrite_busy {f : State → State} {s : State} (hb : s.busy = true) :
    inputWrite f s = setWriteWhileBusy s := by
  rw [inputWrite, if_pos hb]

section InputRegister

variable {s : State} {off : Nat} {v : Word} {r : RegName} {f : State → State}

theorem exec_wr32_input_busy (hb : s.busy = true) (h : off < 0x10000) (ha : off % 4 = 0)
    (hr : regAt off = some r) (hf : inputUpdate v r = some f) :
    exec (.wr32 (BitVec.ofNat 18 off) v) s = .next { s with writeWhileBusy := true, response := some .ok } := by
  rw [exec_wr32_reg h ha hr, writeReg_of_inputUpdate hf, inputWrite_busy hb]
  rfl

theorem exec_wr32_input_idle (hb : s.busy = false) (h : off < 0x10000) (ha : off % 4 = 0)
    (hr : regAt off = some r) (hf : inputUpdate v r = some f) :
    exec (.wr32 (BitVec.ofNat 18 off) v) s = .next (respond .ok (f s)) := by
  rw [exec_wr32_reg h ha hr, writeReg_of_inputUpdate hf, inputWrite_idle hb]

end InputRegister

/-- Settles O47: every input-side write goes through the BUSY window. -/
theorem inputWritesWhileBusyDropped : Obligations.InputWritesWhileBusyDropped := by
  unfold Obligations.InputWritesWhileBusyDropped
  intro s hb
  refine ⟨fun off hoff v => ?_, fun j v => ?_, fun n i v hi ha hm => ?_⟩
  · simp only [List.mem_cons, List.not_mem_nil, or_false] at hoff
    obtain rfl | rfl | rfl := hoff
    · exact exec_wr32_input_busy (r := .present) hb (by decide) rfl rfl rfl
    · exact exec_wr32_input_busy (r := .keyLen) hb (by decide) rfl rfl rfl
    · exact exec_wr32_input_busy (r := .dataLen) hb (by decide) rfl rfl rfl
  · exact exec_wr32_input_busy hb (by omega) (by omega) (regAt_key j) rfl
  · rw [exec_accessInstr_write, hostWrite_input hi ha hm, inputWrite_busy hb]
    rfl

/-- Settles O48: each register's update, and the key bytes after a key word's. -/
theorem inputRegisterWrites : Obligations.InputRegisterWrites := by
  unfold Obligations.InputRegisterWrites
  intro s v hb
  refine ⟨?present, ?keyLen, ?dataLen, fun j => ?key⟩
  case present => exact exec_wr32_input_idle (off := 0x1C) (r := .present) hb (by decide) rfl rfl rfl
  case keyLen => exact exec_wr32_input_idle (off := 0x20) (r := .keyLen) hb (by decide) rfl rfl rfl
  case dataLen => exact exec_wr32_input_idle (off := 0x24) (r := .dataLen) hb (by decide) rfl rfl rfl
  case key =>
    exact ⟨_, exec_wr32_input_idle hb (by omega) (by omega) (regAt_key j) rfl, rfl,
      fun i _ => keyByte_writeKey j v s i⟩

/-- A byte of a narrow write's data, extended to a word (R117). -/
theorem wordByte_setWidth {w : Nat} (hw : w ≤ 32) (d : BitVec w) (k : Nat) :
    wordByte (d.setWidth 32) k = d.extractLsb' (8 * k) 8 := by
  refine BitVec.eq_of_getLsbD_eq fun i hi => ?_
  have hhigh : ¬ 8 * k + i < 32 → d.getLsbD (8 * k + i) = false := fun h => BitVec.getLsbD_of_ge d _ (by omega)
  by_cases h : 8 * k + i < 32 <;> simp [wordByte, hi, h, hhigh]

/-- Settles O49: a store of each width, and the bytes of IN_BUF after it. -/
theorem bufferWrites : Obligations.BufferWrites := by
  unfold Obligations.BufferWrites
  intro s i hinv hb hi
  obtain ⟨hwf, -⟩ := hinv.buffers
  have hstore : ∀ n v, i % n.bytes = 0 → i + n.bytes ≤ s.maxFrame →
      hostWrite n (BitVec.ofNat 18 (0x10000 + i)) v s =
        respond .ok { s with inBuf := storeIn v i n.bytes s.inBuf } :=
    fun _ _ ha hm => hostWrite_input_idle hb hi (window_aligned rfl ha) hm
  refine ⟨fun d hm => ⟨_, congrArg Host.Outcome.next (hstore .one _ (Nat.mod_one i) hm), rfl, fun a => ?_⟩,
    fun d ha hm => ⟨_, congrArg Host.Outcome.next (hstore .two _ ha hm), rfl, fun a => ?_⟩,
    fun d ha hm => ⟨_, congrArg Host.Outcome.next (hstore .four _ ha hm), rfl, inByte_storeIn hwf d i 4⟩⟩
  · refine (inByte_storeIn hwf _ i 1 a).trans ?_
    by_cases h : a = i
    · simp [h, wordByte_setWidth]
    · rw [if_neg h, if_neg (by omega)]
  · rw [← wordByte_setWidth (by decide)]
    exact inByte_storeIn hwf _ i 2 a

end Sys2Proof.Machine

/-! PROOF. The block never stops (R314, R255): a step with nothing to take, the engine's turn, a reset
and a performed host event each have a next state, and bytes that decode to nothing are the one
refusal (R117). -/

namespace Sys2Proof.Machine

/-- A host event that can be performed has a next state (R314). -/
theorem exists_next_of_hostEvent {s : State} {e : Event} {rest : List Event} (hs : s.schedule = e :: rest)
    (he : HostEvent e) : ∃ t, step s = .next t := by
  obtain ⟨u, r, -, hstep⟩ := step_of_hostEvent he hs
  exact ⟨_, hstep⟩

/-- Settles O11: by the schedule's first event, and for host bytes by what they decode to. -/
theorem blockNeverStops : Obligations.BlockNeverStops := by
  unfold Obligations.BlockNeverStops
  intro s
  match hs : s.schedule with
  | [] => exact .inl ⟨_, step_of_schedule_nil hs⟩
  | .engine :: rest => exact .inl ⟨_, step_of_engineTurn (.inl hs)⟩
  | .reset :: rest => exact .inl ⟨_, step_of_schedule_cons hs⟩
  | .bus write n addr data :: rest => exact .inl (exists_next_of_hostEvent hs trivial)
  | .host bytes :: rest =>
    cases hdecode : decode bytes with
    | ok i => exact .inl (exists_next_of_hostEvent hs ⟨i, hdecode⟩)
    | error why =>
      have hrefused : step s = .refused (.notATransaction why) :=
        (step_of_schedule_cons hs).trans (runBytes_of_error hdecode _)
      exact .inr ⟨bytes, rest, why, rfl, hdecode, hrefused⟩

end Sys2Proof.Machine

/-! PROOF. Reset and the hazards around a running command (R350 to R366): the values reset leaves, the
results a busy block hides, the operands it keeps, and the key a completion takes away. -/

namespace Sys2Proof.Machine

/-! ## Reset (R350 to R352) -/

/-- Settles O53: reset leaves legal parameters, clear flags, empty buffers and a zero datapath. -/
theorem resetMeetsInvariant : Obligations.ResetMeetsInvariant where
  params := by decide
  status := by decide
  phase := by decide
  outLen := by decide
  buffers := by decide
  outBuf := fun _ => by decide
  datapath := rfl

/-- Settles O52: the step at a reset event is the reset input. -/
theorem resetAbandonsCommand : Obligations.ResetAbandonsCommand := by
  unfold Obligations.ResetAbandonsCommand
  exact fun _ _ hs => ⟨_, step_of_schedule_cons hs, rfl⟩

/-- What the host sees in OUT_BUF without a finished command is 0x00 (R285). -/
theorem outVis_of_not_done {s : State} (hdone : s.done = false) (i : Nat) : outVis s i = 0x00#8 := by
  simp [outVis, hdone]

/-- Settles O51: registers and flags have their values by definition, the buffers because reset lists
no byte of them. -/
theorem resetValues : Obligations.ResetValues := by
  unfold Obligations.ResetValues
  have hkey : ∀ j : Fin 8, State.reset.key[j] = 0#32 := fun j => Vector.getElem_replicate j.isLt
  have hin : ∀ i, inByte State.reset i = Config.inBufReset State.reset.resets i := fun _ => rfl
  have hout : ∀ i, outByte State.reset i = 0x00#8 ∧ outVis State.reset i = 0x00#8 :=
    fun i => ⟨rfl, outVis_of_not_done rfl i⟩
  exact ⟨rfl, rfl, rfl, rfl, rfl, rfl, rfl, rfl, rfl, rfl, rfl, rfl, rfl, rfl, rfl, rfl, hkey, hin, hout,
    rfl, rfl, rfl⟩

/-! ## While a command runs (R361, R362) -/

/-- A step that leaves the block busy is the host's, and leaves the command that runs as it is: the
engine's turn and a reset both end it. -/
theorem sameCommand_of_step_busy {s t : State} (hinv : Inv s) (hb : s.busy = true)
    (hstep : step s = .next t) (ht : t.busy = true) : SameCommand s t := by
  obtain rfl | ⟨rest, -, rfl⟩ | ⟨u, r, hu, rfl⟩ := step_cases_by_event hstep
  · have hended : (engineStep s).busy = false := by
      obtain ⟨hp, -⟩ | ⟨op, hp, -⟩ := engineStep_cases s
      · exact absurd hp (hinv.phase.1 hb)
      · exact (engineStep_flags hp).2.1
    rw [engineStep_withSchedule, settle_busy] at ht
    exact absurd ht (by simp [hended])
  · exact absurd ht (by simp [State.reset])
  · obtain ⟨hsame, -⟩ := hu.sameCommand_of_busy hb
    have hsame' : SameCommand s u := { hsame with inputs := { hsame.inputs with } }
    exact hsame'.settle_response r

/-- Settles O55: the step keeps the command that runs, and RESULT reads only its operands. -/
theorem inputsFrozenWhileBusy : Obligations.InputsFrozenWhileBusy := by
  unfold Obligations.InputsFrozenWhileBusy
  intro s t hinv hb hstep ht
  have hsame : SameCommand s t := sameCommand_of_step_busy hinv hb hstep ht
  exact ⟨hsame.inputs, hsame.phase, hsame.inputs.commandResult_eq⟩

/-- Bytes that are all 0x00 read as 0 in every width (R85). -/
theorem leValue_zero (n : Nat) : leValue (fun _ => 0#8) n = 0#32 := by
  induction n with
  | zero => rfl
  | succ n ih => simp [leValue, ih]

/-- While busy the result registers hold nothing of an earlier result (R36, R47). -/
theorem Inv.results_of_busy {s : State} (h : Inv s) (hb : s.busy = true) :
    s.done = false ∧ s.value = false ∧ s.cause = 0 ∧ s.outLen = 0 := by
  obtain ⟨hbusy, hnotDone, -⟩ := h.status
  obtain ⟨hclear, -⟩ := h.outLen
  have hdone : s.done = false := hbusy hb
  obtain ⟨hvalue, hcause⟩ := hnotDone hdone
  exact ⟨hdone, hvalue, hcause, hclear (by simp [hdone])⟩

/-- Settles O40: the invariant has the result registers clear while busy, and OUT_BUF is seen only
with DONE set. -/
theorem resultsHiddenWhileBusy : Obligations.ResultsHiddenWhileBusy := by
  unfold Obligations.ResultsHiddenWhileBusy
  intro s hinv hb
  obtain ⟨hdone, hvalue, hcause, hlen⟩ := hinv.results_of_busy hb
  obtain ⟨-, -, hmax⟩ := hinv.params
  refine ⟨exec_rd32_word (r := .outLen) (by decide) rfl rfl hlen,
    exec_rd32_word (r := .status) (by decide) rfl rfl ?_, fun n i hm ha => ?_⟩
  · rw [readReg, statusWord_eq, hcause, hvalue, hdone, hb]
    rfl
  · have hi : i < 0x10000 := by have := Width.bytes_pos n; omega
    rw [exec_accessInstr_read, hostRead_output hi ha hm]
    simp only [outVis_of_not_done hdone, leValue_zero]
    rfl

/-! ## After a completion (R366) -/

/-- A command accepted without a key present completes Absent with CAUSE 1 (R239). -/
theorem engineStep_accept_of_key_absent {s : State} (hkey : s.keyPresent = false) (op : Op) (r : Response) :
    (engineStep (respond r (accept op s))).done = true ∧
    (engineStep (respond r (accept op s))).value = false ∧
    (engineStep (respond r (accept op s))).cause = 1 := by
  have hp : (respond r (accept op s)).phase = .run op := rfl
  have hr : commandResult op (respond r (accept op s)) = .absent .absentInput := by
    rw [commandResult_accept]
    exact result_of_absent (.inl hkey)
  obtain ⟨hdone, -⟩ := engineStep_flags hp
  obtain ⟨hvalue, hcause, -⟩ := engineStep_of_absent hp hr
  exact ⟨hdone, hvalue, hcause⟩

/-- Settles O39: completion zeroizes PRESENT with the key, so the next command finds no key. -/
theorem keyMustBeRewritten : Obligations.KeyMustBeRewritten := by
  unfold Obligations.KeyMustBeRewritten
  intro s op hp
  have hzero : Zeroized (engineStep s) := engineStep_of_run hp ▸ zeroized_complete _ s
  obtain ⟨-, hidle, -⟩ := engineStep_flags hp
  obtain ⟨htDone, htValue, htCause⟩ := engineStep_accept_of_key_absent hzero.keyPresent .encrypt .ok
  obtain ⟨huDone, huValue, huCause⟩ := engineStep_accept_of_key_absent hzero.keyPresent .decrypt .ok
  exact ⟨hzero, _, _, exec_encrypt_of_idle hidle, exec_decrypt_of_idle hidle, htDone, htValue, htCause,
    huDone, huValue, huCause⟩

end Sys2Proof.Machine
